-- ==== Sys2Proof/Word.lean ====
section
/-! DEFINITION. The word types of the WC-432 and the plain numbers that name its ports, locks and windows. -/

namespace Sys2Proof

/-- A word of a register window or of the shared memory: 16 bits, bit 15 the most significant (00_scope 5). -/
abbrev Word := BitVec 16

/-- Eight bits: a command code, a tag, a serial, a session number. -/
abbrev Byte := BitVec 8

/-- A memory address, 0000H to 7FFFH (R52). -/
abbrev MemAddr := BitVec 15

/-- A port, P0 to P3. -/
abbrev Port := Fin 4

/-- A lock number, L0 to L31 (R1). -/
abbrev LockNo := Fin 32

/-- A window index, W0 to W15 (R56). -/
abbrev WindowNo := Fin 16

/-- A set of ports, bit p for port Pp (Table 10-2). -/
abbrev PortSet := BitVec 4

/-- A set of locks, bit n for Ln (Table 10-8). -/
abbrev LockSet := BitVec 32

/-- A set of event classes, in the bit positions of Table 10-5. -/
abbrev ClassSet := BitVec 7

/-- A rights word: bit 2p is the read right of Pp, bit 2p + 1 its write right (Table 10-2). -/
abbrev Rights := BitVec 8

end Sys2Proof
end

