-- ==== Sys2Proof/Syntax.lean ====
section
/-! DEFINITION. The commands and events of the part, one constructor for each row of spec/opcode_table.json. -/

namespace Sys2Proof

/-- The words whose write is the row REGISTER_WRITE: ARG, AADDR and the words that ignore a write (R178, Table 9-3). -/
inductive PlainWord where
  /-- ARG0 to ARG7 (R175). -/
  | arg (i : Fin 8)
  /-- AADDR (R79). -/
  | aaddr
  /-- RES0 to RES9: a write is ignored. -/
  | res (i : Fin 10)
  /-- EVSUM: a write is ignored (R162). -/
  | evsum
  /-- EVEN: a write is ignored (R163). -/
  | even
  /-- PSTAT: a write is ignored (R156). -/
  | pstat
  /-- The reserved offsets 1BH to 1FH: a write is ignored. -/
  | reserved (i : Fin 5)
deriving DecidableEq, Repr

/-- A command or event. A command written to CMD carries only its port: its arguments are the port's ARG words as they
stand when it is taken (R171). -/
inductive Instr where
  -- sessions
  | attach (p : Port)
  | detach (p : Port)
  | evict (p : Port)
  -- locks
  | acquire (p : Port)
  | release (p : Port)
  | renew (p : Port)
  | withdraw (p : Port)
  | lockStatus (p : Port)
  | setLock (p : Port)
  | breakLock (p : Port)
  | setTick (p : Port)
  -- windows
  | probe (p : Port)
  | getWindow (p : Port)
  | setWindow (p : Port)
  | setDefaultRights (p : Port)
  -- copies
  | copy (p : Port)
  | fill (p : Port)
  | cancelCopy (p : Port)
  | takeCompletion (p : Port)
  | pauseCopy (p : Port)
  | resumeCopy (p : Port)
  -- messages
  | send (p : Port)
  | receive (p : Port)
  | msgStatus (p : Port)
  | setQuota (p : Port)
  -- events and status
  | takeLockEvents (p : Port)
  | takePeerEvents (p : Port)
  | takeFault (p : Port)
  | poolStatus (p : Port)
  /-- A write of the word `w` to CMD, `w` not one of the codes of Table 9-1 (R173). -/
  | badCommand (p : Port) (w : Word)
  -- the aperture and the arbiter's grants
  | adataRead (p : Port)
  | adataWrite (p : Port) (w : Word)
  | apertureAccess
  | copyWordMove
  -- register writes
  | amodeWrite (p : Port) (w : Word)
  | evenSet (p : Port) (w : Word)
  | evenClr (p : Port) (w : Word)
  | registerWrite (p : Port) (r : PlainWord) (w : Word)
  -- ticks
  | leaseTick
  /-- The wait of port `p`'s entry on lock `l` reaches its end. -/
  | waitExpiry (l : LockNo) (p : Port)
  /-- The lease of lock `l` reaches its end. -/
  | leaseExpiry (l : LockNo)
  -- resets
  | resetnAsserted
  /-- RESETn negated, with the level of CSEL[1:0] at that moment. -/
  | resetnNegated (csel : Port)
  | prstnAsserted (p : Port)
  | prstnNegated (p : Port)
  -- the bus
  | cycleEndedEarly (p : Port)
deriving DecidableEq, Repr

end Sys2Proof
end

