-- ==== Sys2Proof/Decode.lean ====
section
/-! DEFINITION. Command codes (Table 9-1) and the reading of a word written to CMD. The rows of the table give no bits, so
`decodeTableWord` reads none. -/

namespace Sys2Proof

/-- The command code a command is written to CMD with (Table 9-1); none for an event that is not a CMD write of an assigned
code. -/
def Instr.code? : Instr → Option Byte
  | .attach _ => some 0x01
  | .detach _ => some 0x02
  | .evict _ => some 0x03
  | .acquire _ => some 0x10
  | .release _ => some 0x11
  | .renew _ => some 0x12
  | .withdraw _ => some 0x13
  | .lockStatus _ => some 0x14
  | .setLock _ => some 0x18
  | .breakLock _ => some 0x19
  | .setTick _ => some 0x1A
  | .probe _ => some 0x20
  | .getWindow _ => some 0x21
  | .setWindow _ => some 0x28
  | .setDefaultRights _ => some 0x29
  | .copy _ => some 0x30
  | .fill _ => some 0x31
  | .cancelCopy _ => some 0x32
  | .takeCompletion _ => some 0x33
  | .pauseCopy _ => some 0x38
  | .resumeCopy _ => some 0x39
  | .send _ => some 0x40
  | .receive _ => some 0x41
  | .msgStatus _ => some 0x42
  | .setQuota _ => some 0x48
  | .takeLockEvents _ => some 0x50
  | .takePeerEvents _ => some 0x51
  | .takeFault _ => some 0x52
  | .poolStatus _ => some 0x60
  | .badCommand _ _ => none
  | .adataRead _ => none
  | .adataWrite _ _ => none
  | .apertureAccess => none
  | .copyWordMove => none
  | .amodeWrite _ _ => none
  | .evenSet _ _ => none
  | .evenClr _ _ => none
  | .registerWrite _ _ _ => none
  | .leaseTick => none
  | .waitExpiry _ _ => none
  | .leaseExpiry _ => none
  | .resetnAsserted => none
  | .resetnNegated _ => none
  | .prstnAsserted _ => none
  | .prstnNegated _ => none
  | .cycleEndedEarly _ => none

/-- Whether a command code is reserved to the control port (Table 9-1, "control"; the list of R144). -/
def reservedCode (c : Byte) : Bool :=
  c ∈ [0x03, 0x18, 0x19, 0x1A, 0x28, 0x29, 0x38, 0x39, 0x48]

/-- The command that port `p` starts by writing `w` to CMD: the whole word is the code, a word above 00FFH is unassigned
whatever its low byte, and so is 0000H (R173 step 1, Table 9-1). -/
def decodeCmd (p : Port) (w : Word) : Instr :=
  match w.toNat with
  | 0x01 => .attach p
  | 0x02 => .detach p
  | 0x03 => .evict p
  | 0x10 => .acquire p
  | 0x11 => .release p
  | 0x12 => .renew p
  | 0x13 => .withdraw p
  | 0x14 => .lockStatus p
  | 0x18 => .setLock p
  | 0x19 => .breakLock p
  | 0x1A => .setTick p
  | 0x20 => .probe p
  | 0x21 => .getWindow p
  | 0x28 => .setWindow p
  | 0x29 => .setDefaultRights p
  | 0x30 => .copy p
  | 0x31 => .fill p
  | 0x32 => .cancelCopy p
  | 0x33 => .takeCompletion p
  | 0x38 => .pauseCopy p
  | 0x39 => .resumeCopy p
  | 0x40 => .send p
  | 0x41 => .receive p
  | 0x42 => .msgStatus p
  | 0x48 => .setQuota p
  | 0x50 => .takeLockEvents p
  | 0x51 => .takePeerEvents p
  | 0x52 => .takeFault p
  | 0x60 => .poolStatus p
  | _ => .badCommand p w

/-- Whether a word written to CMD is one of the codes of Table 9-1. -/
def assignedCode (w : Word) : Bool := (decodeCmd 0 w).code?.isSome

/-- The port whose bus cycle a command is; none for the events that are no bus cycle. -/
def Instr.port? : Instr → Option Port
  | .attach p => some p
  | .detach p => some p
  | .evict p => some p
  | .acquire p => some p
  | .release p => some p
  | .renew p => some p
  | .withdraw p => some p
  | .lockStatus p => some p
  | .setLock p => some p
  | .breakLock p => some p
  | .setTick p => some p
  | .probe p => some p
  | .getWindow p => some p
  | .setWindow p => some p
  | .setDefaultRights p => some p
  | .copy p => some p
  | .fill p => some p
  | .cancelCopy p => some p
  | .takeCompletion p => some p
  | .pauseCopy p => some p
  | .resumeCopy p => some p
  | .send p => some p
  | .receive p => some p
  | .msgStatus p => some p
  | .setQuota p => some p
  | .takeLockEvents p => some p
  | .takePeerEvents p => some p
  | .takeFault p => some p
  | .poolStatus p => some p
  | .badCommand p _ => some p
  | .adataRead p => some p
  | .adataWrite p _ => some p
  | .apertureAccess => none
  | .copyWordMove => none
  | .amodeWrite p _ => some p
  | .evenSet p _ => some p
  | .evenClr p _ => some p
  | .registerWrite p _ _ => some p
  | .leaseTick => none
  | .waitExpiry _ _ => none
  | .leaseExpiry _ => none
  | .resetnAsserted => none
  | .resetnNegated _ => none
  | .prstnAsserted _ => none
  | .prstnNegated _ => none
  | .cycleEndedEarly _ => none

/-- The command a word spells by the bits of the opcode table: the table gives no row any bits, so no word spells one. -/
def decodeTableWord (_nbits _w : Nat) : Option Instr := none

end Sys2Proof
end

