-- ==== Sys2Proof/Config.lean ====
section
/-! DEFINITION. The quantities the part fixes (Table 1-1 of 00_scope.md) and the value of memory that nothing has written. -/

namespace Sys2Proof.Config

/-- Entries in the waiter-entry pool (R5). -/
def waiterEntries : Nat := 32

/-- Slots in the message-slot pool (R125). -/
def messageSlots : Nat := 32

/-- Descriptors the copy queue holds (R98). -/
def copySlots : Nat := 8

/-- Descriptors and uncollected records one port may have (R100). -/
def copiesPerPort : Nat := 4

/-- Longest copy, in words (R97). -/
def longestCopy : Nat := 4096

/-- Longest lease and longest wait limit, in ticks (R1, R3). -/
def mostTicks : Nat := 1023

/-- Largest receive quota (R126). -/
def largestQuota : Nat := 32

/-- Quota of every port after RESETn (R126). -/
def resetQuota : Nat := 8

/-- Tick divider after RESETn (R31). -/
def resetDivider : Byte := 63

/-- CLK periods in one lease tick at D = 0 (R31). -/
def clocksPerTickUnit : Nat := 256

/-- The word a refused or not-attached read returns, FFFFH (R85, R92). -/
def refusedRead : Word := 0xFFFF

/-- What a word of shared memory reads as when nothing has written it since power was applied.
DESIGN CHOICE, unsafe: R52 leaves the contents undefined (log entry 2). -/
def unwrittenWord : Word := 0

end Sys2Proof.Config
end

