-- ==== Sys2Proof/Machine/State.lean ====
section
/-! DEFINITION. The state of the WC-432 as plain data: every record, queue, set, counter and word the chapters name, each block's
part under the block's own names, and the state while RESETn is asserted. -/

namespace Sys2Proof.Machine

/-- Why a step stops with a fault. The part has no event that stops it: a refused command posts a result code (R174), a
refused access fills a record (R87), a refused copy word ends its descriptor (R109). So there is no constructor. -/
inductive Fault where
deriving DecidableEq, Repr

/-- Why a command has no meaning in this model. -/
inductive Refusal where
  /-- Raised by an arm of `exec` whose command has no meaning yet. Safe: the model stops where the part goes on. -/
  | notModelled (mnemonic : String)
  /-- Raised by BAD_COMMAND when its word is an assigned code: the term is ill formed, since that write is the row of the
  command with this code (R173). Safe: nothing is claimed of a step that cannot be. -/
  | codeAssigned (w : Word)
deriving DecidableEq, Repr

/-- A port's state (R141). -/
inductive PortMode where
  | down
  | detached
  | attached
deriving DecidableEq, Repr

/-- How a lock is held (R1). -/
inductive LockMode where
  | free
  | shared
  | exclusive
deriving DecidableEq, Repr

/-- The mode a request asks for (R3). -/
inductive ReqMode where
  | shared
  | exclusive
deriving DecidableEq, Repr

/-- The direction of an access (R60). -/
inductive Dir where
  | read
  | write
deriving DecidableEq, Repr

/-- The advance mode AMODE (R80). -/
inductive AdvanceMode where
  | hold
  | step
  | wrap
deriving DecidableEq, Repr

/-- The three ways a check refuses (R61). -/
inductive Refused where
  | unmapped
  | rights
  | guard
deriving DecidableEq, Repr

/-- A waiter entry (R3). -/
structure Waiter where
  port : Port
  mode : ReqMode
  /-- Ticks left; none when the ACQUIRE gave a wait limit of 0. -/
  wait : Option Nat
deriving DecidableEq, Repr

/-- A lock record (R1, Table 1-1); its number is its place in the lock table. -/
structure LockRec where
  enabled : Bool
  mode : LockMode
  holders : PortSet
  leaseLength : Nat
  /-- Ticks left before lease expiry; none while the lock is free or unleased. -/
  leaseLeft : Option Nat
  /-- Oldest entry first (R4). -/
  queue : List Waiter
deriving DecidableEq, Repr

/-- A lock record after RESETn (Table 1-1). -/
def LockRec.reset : LockRec :=
  { enabled := true, mode := .free, holders := 0, leaseLength := 0, leaseLeft := none, queue := [] }

/-- A window record (R56, Table 3-1); its index is its place in the window table. -/
structure Window where
  enabled : Bool
  /-- The size code k: the window covers 2^k view addresses. -/
  size : Nat
  viewBase : Word
  targetBase : MemAddr
  rights : Rights
  guard : Option LockNo
  guardReads : Bool
deriving DecidableEq, Repr

/-- A window record after RESETn (Table 3-1). -/
def Window.reset : Window :=
  { enabled := false, size := 4, viewBase := 0, targetBase := 0, rights := 0, guard := none, guardReads := false }

/-- The aperture's fault record, when it is not empty (R86, Table 4-3). -/
structure FaultRecord where
  kind : Refused
  dir : Dir
  view : Word
  mem : Option MemAddr
  window : Option WindowNo
  guard : Option LockNo
  more : Bool
deriving DecidableEq, Repr

/-- What an aperture request asks for: a read, or a write of the word the cycle carried (R81). -/
inductive AccessKind where
  | read
  | write (w : Word)
deriving DecidableEq, Repr

/-- An aperture request in the arbiter's waiting set (R81). -/
structure AccessRequest where
  kind : AccessKind
  view : Word
  /-- The session in which it was taken. -/
  session : Byte
deriving DecidableEq, Repr

/-- How the last ADATA cycle of a port was answered (R82, R92, R176). -/
inductive CycleAnswer where
  /-- No ADATA cycle has been answered since the last reset of the port. -/
  | none
  /-- A read was answered with this word. -/
  | data (w : Word)
  /-- A write cycle was answered with its end. -/
  | done
  /-- A read that the agent had ended early was served; its data are lost to the agent (R176). -/
  | lost
deriving DecidableEq, Repr

/-- The values of POOL_STATUS after the free waiter entries, which its first event reads (R177): one for each of RES1 to RES4. -/
inductive PoolValue where
  | messageSlots
  | copySlots
  | engineState
  | tickDivider
deriving DecidableEq, Repr

/-- How far the command of a stretched CMD cycle has come (R171). -/
inductive CmdStage where
  /-- A POOL_STATUS that has read these values, RES0 first, and has these left to read (R177). -/
  | reading (done : List Word) (left : List PoolValue)
  /-- The command has ended and its result is posted; the cycle is still to be answered. -/
  | posted
deriving DecidableEq, Repr

/-- A message (R124, Table 6-1); its length is the length of its payload. -/
structure Message where
  source : Port
  session : Byte
  tag : Byte
  payload : List Word
deriving DecidableEq, Repr

/-- What a descriptor does: COPY from a source view address, or FILL with a pattern word (R97). -/
inductive CopyJob where
  | copy (source : Word)
  | fill (pattern : Word)
deriving DecidableEq, Repr

/-- A descriptor's state (R97). -/
inductive DescState where
  | queued
  | active
deriving DecidableEq, Repr

/-- A copy descriptor (R97, Table 5-1). -/
structure Descriptor where
  requester : Port
  serial : Byte
  tag : Byte
  job : CopyJob
  dest : Word
  length : Nat
  moved : Nat
  state : DescState
deriving DecidableEq, Repr

/-- The kind of a completed descriptor (Table 5-4). -/
inductive CopyKind where
  | copy
  | fill
deriving DecidableEq, Repr

/-- How a descriptor ended (R112). A refusal carries the view address and direction of the refused check (R109). -/
inductive CopyStatus where
  | done
  | cancelled
  | refused (why : Refused) (view : Word) (dir : Dir)
deriving DecidableEq, Repr

/-- A completion record (R111, Table 5-4). -/
structure Completion where
  serial : Byte
  tag : Byte
  kind : CopyKind
  status : CopyStatus
  moved : Nat
deriving DecidableEq, Repr

/-- The copy engine's state (R101). -/
inductive EngineMode where
  | idle
  | running
  | paused
deriving DecidableEq, Repr

/-- The copy engine: its queue, oldest first (R98), its state (R101), and whether its request waits at the arbiter (R105). -/
structure Engine where
  queue : List Descriptor
  mode : EngineMode
  requesting : Bool
deriving DecidableEq, Repr

/-- The copy engine after RESETn (R123). -/
def Engine.reset : Engine := { queue := [], mode := .idle, requesting := false }

/-- A requester of the memory arbiter (R89). -/
inductive Requester where
  | port (p : Port)
  | engine
deriving DecidableEq, Repr

/-- What the part keeps for one port: session unit, command interface, aperture and its bus cycle, event unit, and the port's
share of the message unit and of the copy engine. -/
structure PortState where
  /-- Session unit (R141, R147). -/
  mode : PortMode
  session : Byte
  /-- The level of the port's PRSTn input (R182). -/
  prstAsserted : Bool
  /-- Command interface (R174, R175). -/
  status : Word
  args : Vector Word 8
  res : Vector Word 10
  /-- Aperture (R78). -/
  aaddr : Word
  amode : AdvanceMode
  fault : Option FaultRecord
  /-- The port's request in the arbiter's waiting set (R89); its ADATA cycle is stretched while it waits (R81). -/
  request : Option AccessRequest
  /-- The port's CMD cycle, stretched from its write until it is answered (R171): its block has taken the command, which has come
  to this stage; none when no CMD cycle is stretched. -/
  command : Option CmdStage
  /-- Whether the agent has ended the newest unanswered cycle of the port early (R176). -/
  cycleEnded : Bool
  /-- Cycles held stretched until the earlier one has been answered, oldest first (R176). -/
  held : List Instr
  answer : CycleAnswer
  /-- Event unit (R158). -/
  granted : LockSet
  revoked : LockSet
  waitEnd : LockSet
  peerUp : PortSet
  peerDown : PortSet
  enables : ClassSet
  /-- Message unit (R126): the receive queue, oldest first. -/
  quota : Nat
  inbox : List Message
  /-- Copy engine (R99, R111): the completion list, oldest first. -/
  serial : Byte
  completions : List Completion
deriving DecidableEq, Repr

/-- A port while RESETn is asserted (Tables 7-1, 9-4, 4-1, 8-1, 6-2; R99, R111). The PRSTn level is an input, taken negated:
DESIGN CHOICE (log entry 3). -/
def PortState.reset : PortState :=
  { mode := .down, session := 0, prstAsserted := false,
    status := 0, args := Vector.replicate 8 0, res := Vector.replicate 10 0,
    aaddr := 0, amode := .hold, fault := none, request := none, command := none, cycleEnded := false,
    held := [], answer := .none, granted := 0, revoked := 0, waitEnd := 0, peerUp := 0, peerDown := 0, enables := 0,
    quota := Config.resetQuota, inbox := [], serial := 0, completions := [] }

/-- Shared memory: the words written, as pairs of memory address and word in rising order of address, none equal to
`Config.unwrittenWord`; every other word reads as that (R52). -/
abbrev Memory := List (Nat × Word)

/-- The whole part. -/
structure State where
  /-- The level of RESETn (R143). -/
  resetAsserted : Bool
  /-- The port that CSEL named at the last negation of RESETn; none while RESETn is asserted (R143, R144). -/
  control : Option Port
  ports : Vector PortState 4
  locks : Vector LockRec 32
  /-- The lease timer's D and running count (R31). -/
  divider : Byte
  count : Nat
  windows : Vector Window 16
  defaultRights : Rights
  mem : Memory
  /-- The arbiter's position (R89). -/
  position : Requester
  engine : Engine
  /-- Commands and events waiting to be taken, first in, first out. The model's own field. -/
  pending : List Instr
deriving DecidableEq, Repr

/-- The part held in chip reset, RESETn asserted (R30, R31, R75, R96, R123, R140, R143, R170, R179). The memory lists nothing
(log entry 2). RESETN_NEGATED brings it into service (log entry 1). -/
def State.reset : State :=
  { resetAsserted := true, control := none,
    ports := Vector.replicate 4 PortState.reset, locks := Vector.replicate 32 LockRec.reset,
    divider := Config.resetDivider, count := 0,
    windows := Vector.replicate 16 Window.reset, defaultRights := 0xFF,
    mem := [], position := .port 0, engine := Engine.reset, pending := [] }

end Sys2Proof.Machine
end

