-- ==== Sys2Proof/Machine/Ops.lean ====
section
/-! DEFINITION. The named operations the meanings share: sets, shared memory, a port's record, a lock-table event, the posting
of a result, the checks every command passes first, and the state of a port's bus. -/

namespace Sys2Proof

/-- Membership of a port in a port set (Table 10-2: bit p stands for Pp). -/
def PortSet.has (s : PortSet) (p : Port) : Bool := s.getLsbD p.val

/-- The set of the ports that satisfy `f`. -/
def PortSet.of (f : Port → Bool) : PortSet := BitVec.ofFnLE f

/-- The set with `p` joined. -/
def PortSet.insert (s : PortSet) (p : Port) : PortSet := PortSet.of fun q => s.has q || q == p

/-- The set with `p` removed. -/
def PortSet.erase (s : PortSet) (p : Port) : PortSet := PortSet.of fun q => s.has q && q != p

/-- The set of the ports in a list. -/
def PortSet.ofList (l : List Port) : PortSet := PortSet.of fun q => l.contains q

/-- Membership of a lock in a lock set (Table 10-8). -/
def LockSet.has (s : LockSet) (l : LockNo) : Bool := s.getLsbD l.val

/-- The set of the locks that satisfy `f`. -/
def LockSet.of (f : LockNo → Bool) : LockSet := BitVec.ofFnLE f

namespace Machine

/-- The right of port `p` in direction `d` that a rights word gives (Table 10-2, R60). -/
def rightFor (r : Rights) (p : Port) (d : Dir) : Bool :=
  r.getLsbD (match d with
    | .read => 2 * p.val
    | .write => 2 * p.val + 1)

/-! ### Shared memory -/

/-- Reads one word of memory (R52). -/
def Memory.read : Memory → Nat → Word
  | [], _ => Config.unwrittenWord
  | (b, w) :: m, a => if a = b then w else Memory.read m a

/-- Puts a word in front of memory cells that lie above it, unless it is what an unlisted word reads as. -/
def Memory.cons (a : Nat) (w : Word) (m : Memory) : Memory :=
  if w = Config.unwrittenWord then m else (a, w) :: m

/-- Writes one word of memory whole (R52), keeping the canonical form. -/
def Memory.write : Memory → Nat → Word → Memory
  | [], a, w => Memory.cons a w []
  | (b, v) :: m, a, w =>
    if a < b then Memory.cons a w ((b, v) :: m)
    else if a = b then Memory.cons a w m
    else (b, v) :: Memory.write m a w

/-- Whether every address of a memory lies above a bound. -/
def Memory.above : Nat → Memory → Bool
  | _, [] => true
  | n, (a, _) :: m => decide (n ≤ a) && Memory.above n m

/-- The canonical form of memory: addresses strictly rising and inside the memory (R52), no entry equal to what an unlisted
word reads as. -/
def Memory.wf : Memory → Bool
  | [] => true
  | (a, w) :: m => decide (a < 32768) && decide (w ≠ Config.unwrittenWord) && Memory.above (a + 1) m && Memory.wf m

/-! ### Records of the state -/

/-- The record of port `p`. -/
def State.port (s : State) (p : Port) : PortState := s.ports[p]

/-- Lock record `l`. -/
def State.lock (s : State) (l : LockNo) : LockRec := s.locks[l]

/-- Window record `i`. -/
def State.window (s : State) (i : WindowNo) : Window := s.windows[i]

/-- Changes every port's record. -/
def State.mapPorts (s : State) (f : Port → PortState → PortState) : State :=
  { s with ports := Vector.ofFn fun p => f p (s.port p) }

/-- Changes one port's record. -/
def State.onPort (s : State) (p : Port) (f : PortState → PortState) : State :=
  s.mapPorts fun q r => if q = p then f r else r

/-- Replaces one window record (R68). -/
def State.setWindowRec (s : State) (i : WindowNo) (w : Window) : State :=
  { s with windows := Vector.ofFn fun j => if j = i then w else s.window j }

/-- Whether port `p` is ATTACHED (R142). -/
def State.attached (s : State) (p : Port) : Bool := (s.port p).mode == .attached

/-- The control-port flag of port `p` (R144). -/
def State.isControl (s : State) (p : Port) : Bool := s.control == some p

/-- The argument word `i` of port `p` (R175). -/
def State.arg (s : State) (p : Port) (i : Fin 8) : Word := (s.port p).args[i]

/-- Free entries in the waiter-entry pool: 32 less the entries in all queues (R5). -/
def State.freeEntries (s : State) : Nat :=
  Config.waiterEntries - ((List.finRange 32).map fun l => (s.lock l).queue.length).sum

/-- Free slots in the message-slot pool: 32 less the messages in all receive queues (R125). -/
def State.freeSlots (s : State) : Nat :=
  Config.messageSlots - ((List.finRange 4).map fun p => (s.port p).inbox.length).sum

/-! ### Lock-table events -/

/-- What a lock-table event does to one lock: the record it leaves, and the ports to which it hands the GRANTED, REVOKED and
WAITEND bits for the lock (R29, Table 1-4). -/
structure LockChange where
  record : LockRec
  granted : PortSet := 0
  revoked : PortSet := 0
  waitEnd : PortSet := 0
deriving DecidableEq, Repr

/-- The bits a lock-table event hands to one port are added to its sets if the port is ATTACHED, and are not stored otherwise
(R159). -/
def PortState.addLockBits (r : PortState) (granted revoked waitEnd : LockSet) : PortState :=
  if r.mode = .attached then
    { r with granted := r.granted ||| granted, revoked := r.revoked ||| revoked, waitEnd := r.waitEnd ||| waitEnd }
  else r

/-- One event of the lock table, taken whole: every lock is changed by `f`, and every bit it sets is set in the same event
(R6). -/
def State.lockEvent (s : State) (f : LockNo → LockRec → LockChange) : State :=
  { s with
    locks := Vector.ofFn fun l => (f l (s.lock l)).record
    ports := Vector.ofFn fun p => (s.port p).addLockBits
      (LockSet.of fun l => (f l (s.lock l)).granted.has p)
      (LockSet.of fun l => (f l (s.lock l)).revoked.has p)
      (LockSet.of fun l => (f l (s.lock l)).waitEnd.has p) }

/-- A lock-table event on one lock; the other records are not touched (R6). -/
def State.onLock (s : State) (l : LockNo) (f : LockRec → LockChange) : State :=
  s.lockEvent fun m r => if m = l then f r else { record := r }

/-! ### Results -/

/-- The result codes (Table 9-2). -/
inductive Result where
  | ok
  | granted
  | queued
  | busy
  | held
  | late
  | notHolder
  | notQueued
  | alreadyHeld
  | alreadyQueued
  | noEntry
  | badLock
  | full
  | noSlot
  | destDown
  | empty
  | copyLimit
  | queueFull
  | noSuchCopy
  | complete
  | noRecord
  | inUse
  | notPermitted
  | notAttached
  | alreadyAttached
  | targetDown
  | badArg
  | badCommand
deriving DecidableEq, Repr

/-- The number STATUS carries for a result code (Table 9-2). -/
def Result.value : Result → Byte
  | .ok => 0
  | .granted => 1
  | .queued => 2
  | .busy => 3
  | .held => 4
  | .late => 5
  | .notHolder => 6
  | .notQueued => 7
  | .alreadyHeld => 8
  | .alreadyQueued => 9
  | .noEntry => 10
  | .badLock => 11
  | .full => 12
  | .noSlot => 13
  | .destDown => 14
  | .empty => 15
  | .copyLimit => 16
  | .queueFull => 17
  | .noSuchCopy => 18
  | .complete => 19
  | .noRecord => 20
  | .inUse => 21
  | .notPermitted => 22
  | .notAttached => 23
  | .alreadyAttached => 24
  | .targetDown => 25
  | .badArg => 26
  | .badCommand => 27

/-- What the owning block returns for a command: the state it leaves, the result code, and the result words the command
defines for this result, RES0 first (R174). -/
structure Reply where
  state : State
  result : Result
  words : List Word := []

/-- STATUS: the result code in bits 15:8, the command code in bits 7:0 (Table 10-3). -/
def statusWord (r : Result) (code : Byte) : Word := r.value ++ code

/-- The posting of a result, when its command ends: STATUS and RES0 to RES9 are written together, a word the command does not
define is 0000H (R174). The CMD cycle is stretched until it is answered (R171). -/
def State.post (s : State) (p : Port) (code : Byte) (r : Result) (words : List Word) : State :=
  s.onPort p fun t =>
    { t with
      status := statusWord r code
      res := Vector.ofFn fun i => words.getD i.val 0
      command := some .posted }

/-- Steps 2 and 3 of R173, then the command's own work, then the posting (R171, R174). -/
def State.command (s : State) (p : Port) (code : Byte) (work : State → Reply) : State :=
  if s.attached p = false then s.post p code .notAttached []
  else if reservedCode code && !s.isControl p then s.post p code .notPermitted []
  else (work s).state.post p code (work s).result (work s).words

/-! ### Bus cycles -/

/-- Whether a cycle of the port that has been taken is stretched: an ADATA access waits at the arbiter, or a CMD cycle has not
been answered (R180). -/
def PortState.stretched (r : PortState) : Bool := r.request.isSome || r.command.isSome

/-- Whether a cycle of the port is unanswered: one that is stretched, or one held behind it (R81, R176, R180). -/
def PortState.busy (r : PortState) : Bool := r.stretched || !r.held.isEmpty

/-- Whether the front cycle of a busy port waits for no grant of the arbiter, so that its bus can answer it (R171). -/
def PortState.answerable (r : PortState) : Bool := r.request.isNone && r.busy

/-- A cycle that the agent starts while one it ended early is unanswered is held stretched, and is from now on the newest
cycle (R176). -/
def PortState.hold (c : Instr) (r : PortState) : PortState :=
  { r with held := r.held ++ [c], cycleEnded := false }

/-- The cycles held at port `p`, and whether the newest unanswered cycle has been ended early, are set. -/
def State.setHeld (s : State) (p : Port) (held : List Instr) (ended : Bool) : State :=
  s.onPort p fun r => { r with held := held, cycleEnded := ended }

end Machine

end Sys2Proof
end

