-- ==== Sys2Proof/Machine/Operands.lean ====
section
/-! DEFINITION. The argument fields of the commands (Chapter 10, R184, R186): each is read from its ARG word as an unsigned number
and tested for range, or as a code of Table 10-2; `none` is a malformed or out-of-range field. -/

namespace Sys2Proof.Machine

/-- A lock number that fills a word, below 32 (R184). -/
def lockField (w : Word) : Option LockNo :=
  if h : w.toNat < 32 then some ⟨w.toNat, h⟩ else none

/-- A port number that fills a word, below 4 (R184). -/
def portField (w : Word) : Option Port :=
  if h : w.toNat < 4 then some ⟨w.toNat, h⟩ else none

/-- A window index that fills a word, below 16 (R184). -/
def windowField (w : Word) : Option WindowNo :=
  if h : w.toNat < 16 then some ⟨w.toNat, h⟩ else none

/-- A flag that fills a word: 0000H or 0001H (R184). -/
def flagField (w : Word) : Option Bool :=
  if w = 0 then some false else if w = 1 then some true else none

/-- A number from `low` to `high` that fills a word (R184). -/
def rangeField (low high : Nat) (w : Word) : Option Nat :=
  if low ≤ w.toNat ∧ w.toNat ≤ high then some w.toNat else none

/-- A number of at most 255 that fills a word: a tag, a serial, a tick divider (R184). -/
def byteField (w : Word) : Option Byte :=
  if w.toNat ≤ 255 then some (w.setWidth 8) else none

/-- A requested mode: 1 SHARED, 2 EXCLUSIVE (Table 10-2). -/
def modeField (w : Word) : Option ReqMode :=
  if w = 1 then some .shared else if w = 2 then some .exclusive else none

/-- A direction: 0 read, 1 write (Table 10-2). -/
def dirField (w : Word) : Option Dir :=
  if w = 0 then some .read else if w = 1 then some .write else none

/-- A rights word with bits 15:8 zero (Table 10-9, R186). -/
def rightsField (w : Word) : Option Rights :=
  if w.extractLsb' 8 8 = 0 then some (w.setWidth 8) else none

/-- The AMODE codes: 0 HOLD, 1 STEP, 2 WRAP (Table 10-2). -/
def amodeField (w : Word) : Option AdvanceMode :=
  if w = 0 then some .hold else if w = 1 then some .step else if w = 2 then some .wrap else none

/-- ACQUIRE's fields after the lock number: requested mode, wait flag, wait limit (Table 10-6, R7 check 2). -/
structure AcquireArgs where
  mode : ReqMode
  wait : Bool
  limit : Nat
deriving DecidableEq, Repr

/-- ACQUIRE's argument check (R7 check 2). The wait limit is checked whatever the wait flag is. -/
def acquireArgs (mode wait limit : Word) : Option AcquireArgs :=
  match modeField mode, flagField wait, rangeField 0 Config.mostTicks limit with
  | some m, some f, some n => some { mode := m, wait := f, limit := n }
  | _, _, _ => none

/-- SET_LOCK's argument check: the enabled flag and the lease length (R22 check 2, Table 10-6). -/
def setLockArgs (enabled length : Word) : Option (Bool × Nat) :=
  match flagField enabled, rangeField 0 Config.mostTicks length with
  | some e, some n => some (e, n)
  | _, _ => none

/-- The guard word ARG6 of SET_WINDOW: bit 9 guard reads, bit 8 guard present, bits 7:0 the guard lock, checked and stored
only when present, bits 15:10 zero (Table 10-9, R67). -/
def guardField (w : Word) : Option (Option LockNo × Bool) :=
  if w.extractLsb' 10 6 ≠ 0 then none
  else if w.getLsbD 8 = true then
    (match lockField ((w.setWidth 8).setWidth 16) with
      | some l => some (some l, w.getLsbD 9)
      | none => none)
  else some (none, w.getLsbD 9)

/-- The two bases of SET_WINDOW: multiples of 2^k, the target below 8000H, k from 4 to 15 (R67). -/
def basesField (k view target : Word) : Option (Nat × Word × MemAddr) :=
  match rangeField 4 15 k with
  | none => none
  | some n =>
    if view.toNat % 2 ^ n = 0 ∧ target.toNat < 0x8000 ∧ target.toNat % 2 ^ n = 0 then
      some (n, view, target.setWidth 15)
    else none

/-- SET_WINDOW's argument check (R67): the window named and its new record. -/
def setWindowArgs (index enabled k view target rights guard : Word) : Option (WindowNo × Window) :=
  match windowField index, flagField enabled, basesField k view target, rightsField rights, guardField guard with
  | some i, some e, some (n, v, t), some r, some (g, gr) =>
    some (i, { enabled := e, size := n, viewBase := v, targetBase := t, rights := r, guard := g, guardReads := gr })
  | _, _, _, _, _ => none

/-- PROBE's argument check (R72): the port and the direction. -/
def probeArgs (port dir : Word) : Option (Port × Dir) :=
  match portField port, dirField dir with
  | some p, some d => some (p, d)
  | _, _ => none

/-- The argument check of COPY and FILL (R103 check 1): the tag and the length. -/
def copyArgs (tag length : Word) : Option (Byte × Nat) :=
  match byteField tag, rangeField 1 Config.longestCopy length with
  | some t, some n => some (t, n)
  | _, _ => none

/-- SEND's first argument word: destination in bits 14:12, length in bits 11:8, tag in bits 7:0, bit 15 zero (Table 10-13,
R128 check 1). -/
structure SendArgs where
  dest : Port
  length : Nat
  tag : Byte
deriving DecidableEq, Repr

/-- SEND's argument check (R128 check 1). -/
def sendArgs (w : Word) : Option SendArgs :=
  if w.getLsbD 15 = true then none
  else match portField ((w.extractLsb' 12 3).setWidth 16) with
    | none => none
    | some d =>
      if (w.extractLsb' 8 4).toNat ≤ 7 then
        some { dest := d, length := (w.extractLsb' 8 4).toNat, tag := w.setWidth 8 }
      else none

/-- SET_QUOTA's argument check (R136 check 1): the port and the quota. -/
def quotaArgs (port quota : Word) : Option (Port × Nat) :=
  match portField port, rangeField 0 Config.largestQuota quota with
  | some p, some q => some (p, q)
  | _, _ => none

/-- EVICT's argument check (R151 check 1): a target port other than the control port that issues it. -/
def evictArg (issuer : Port) (w : Word) : Option Port :=
  match portField w with
  | some t => if t = issuer then none else some t
  | none => none

/-- A word of a result: a number (R185). -/
def numWord (n : Nat) : Word := BitVec.ofNat 16 n

/-- A flag as a result word: 0000H or 0001H. -/
def flagWord (b : Bool) : Word := if b then 1 else 0

/-- A number that may be absent, shown by 0 (R185: lease remaining and wait remaining). -/
def ticksWord : Option Nat → Word
  | none => 0
  | some n => numWord n

/-- A field shown with a present flag in bit 15; 0000H when absent (R185). -/
def presentWord : Option Nat → Word
  | none => 0
  | some n => 0x8000 ||| numWord n

/-- The code of a lock mode (Table 10-2). -/
def LockMode.code : LockMode → BitVec 2
  | .free => 0
  | .shared => 1
  | .exclusive => 2

/-- The code of a requested mode (Table 10-2). -/
def ReqMode.code : ReqMode → BitVec 2
  | .shared => 1
  | .exclusive => 2

/-- The code of a direction (Table 10-2). -/
def Dir.code : Dir → BitVec 1
  | .read => 0
  | .write => 1

/-- The code of a refusal, as a fault kind, a check outcome or a completion status (Table 10-2). -/
def Refused.code : Refused → BitVec 2
  | .unmapped => 1
  | .rights => 2
  | .guard => 3

/-- The code of an engine state (Table 10-2). -/
def EngineMode.code : EngineMode → BitVec 2
  | .idle => 0
  | .running => 1
  | .paused => 2

/-- The code of an advance mode (Table 10-2). -/
def AdvanceMode.code : AdvanceMode → BitVec 2
  | .hold => 0
  | .step => 1
  | .wrap => 2

/-- The code of a copy kind (Table 10-2). -/
def CopyKind.code : CopyKind → BitVec 1
  | .copy => 0
  | .fill => 1

/-- The code of a completion status (Table 10-2). -/
def CopyStatus.code : CopyStatus → BitVec 3
  | .done => 0
  | .cancelled => 4
  | .refused why _ _ => why.code.setWidth 3

end Sys2Proof.Machine
end

