-- ==== Sys2Proof/Machine/Locks.lean ====
section
/-! DEFINITION. The lock table (Chapters 1 and 2): what its events do to one lock record, and the lock commands. -/

namespace Sys2Proof.Machine

/-! ### One lock record -/

/-- The lease as loaded when the lock passes from FREE to held: the lease length, or absent if that is 0 (R10). -/
def LockRec.loaded (r : LockRec) : Option Nat :=
  if r.leaseLength = 0 then none else some r.leaseLength

/-- Whether port `p` is in the holder set. -/
def LockRec.heldBy (r : LockRec) (p : Port) : Bool := r.holders.has p

/-- Whether port `p` has an entry in the waiter queue. -/
def LockRec.queuedBy (r : LockRec) (p : Port) : Bool := r.queue.any fun e => e.port == p

/-- The request is grantable now (R9): the lock is FREE, or SHARED with an empty queue and a SHARED request. -/
def LockRec.grantable (r : LockRec) (m : ReqMode) : Bool :=
  match r.mode, m with
  | .free, _ => true
  | .shared, .shared => r.queue.isEmpty
  | .shared, .exclusive => false
  | .exclusive, _ => false

/-- The lock mode a grant of a request makes (R2). -/
def ReqMode.lockMode : ReqMode → LockMode
  | .shared => .shared
  | .exclusive => .exclusive

/-- Ports join the holder set in mode `m`; the lease is loaded if the lock was FREE, and kept otherwise (R9, R10, R14). -/
def LockRec.grant (r : LockRec) (m : ReqMode) (ports : List Port) : LockRec :=
  { r with
    mode := m.lockMode
    holders := PortSet.of fun q => r.holders.has q || ports.contains q
    leaseLeft := if r.mode = .free then r.loaded else r.leaseLeft }

/-- The entries of a SHARED head batch: the SHARED entries that stand together at the head (R13 case 2). -/
def sharedBatch (q : List Waiter) : List Waiter := q.takeWhile fun e => e.mode == .shared

/-- The entries behind the SHARED head batch. -/
def afterBatch (q : List Waiter) : List Waiter := q.dropWhile fun e => e.mode == .shared

/-- Re-evaluation of a lock: one batch from the head of the queue is granted, with its GRANTED bits (R13, R14). -/
def LockRec.reevaluate (r : LockRec) : LockChange :=
  match r.queue with
  | [] => { record := r }
  | e :: rest =>
    match e.mode, r.mode with
    | .exclusive, .free =>
      { record := { r.grant .exclusive [e.port] with queue := rest }, granted := PortSet.ofList [e.port] }
    | .exclusive, .shared => { record := r }
    | .exclusive, .exclusive => { record := r }
    | .shared, .exclusive => { record := r }
    | .shared, .free =>
      { record := { r.grant .shared ((sharedBatch r.queue).map Waiter.port) with queue := afterBatch r.queue },
        granted := PortSet.ofList ((sharedBatch r.queue).map Waiter.port) }
    | .shared, .shared =>
      { record := { r.grant .shared ((sharedBatch r.queue).map Waiter.port) with queue := afterBatch r.queue },
        granted := PortSet.ofList ((sharedBatch r.queue).map Waiter.port) }

/-- Port `p` leaves the holder set; if no holder is left the lock is FREE and its lease stops (R16, R27). -/
def LockRec.dropHolder (r : LockRec) (p : Port) : LockRec :=
  if r.holders.erase p = 0 then { r with holders := 0, mode := .free, leaseLeft := none }
  else { r with holders := r.holders.erase p }

/-- Port `p`'s entry leaves the queue and the entries behind it close up (R4). -/
def LockRec.dropWaiter (r : LockRec) (p : Port) : LockRec :=
  { r with queue := r.queue.filter fun e => e.port != p }

/-- Every holder is removed, the mode becomes FREE and the lease stops (R24, R41). -/
def LockRec.freed (r : LockRec) : LockRec := { r with holders := 0, mode := .free, leaseLeft := none }

/-- A RELEASE by the holder `p` (R16). -/
def LockRec.release (r : LockRec) (p : Port) : LockChange := (r.dropHolder p).reevaluate

/-- A WITHDRAW of `p`'s entry (R19). -/
def LockRec.withdraw (r : LockRec) (p : Port) : LockChange := (r.dropWaiter p).reevaluate

/-- The queueing of an entry at the tail, and the re-evaluation that follows (R11, R12). -/
def LockRec.enqueue (r : LockRec) (e : Waiter) : LockChange :=
  { r with queue := r.queue ++ [e] }.reevaluate

/-- A RENEW: lease remaining is set to the lease length if the lock is leased (R18). -/
def LockRec.renewed (r : LockRec) : LockRec :=
  if r.leaseLength = 0 then r else { r with leaseLeft := some r.leaseLength }

/-- A BREAK: the holders are revoked, the queue is flushed or kept, and the lock is re-evaluated (R24, R25). -/
def LockRec.broken (r : LockRec) (flush : Bool) : LockChange :=
  if flush then
    { { r.freed with queue := [] }.reevaluate with
      revoked := r.holders, waitEnd := PortSet.ofList (r.queue.map Waiter.port) }
  else { r.freed.reevaluate with revoked := r.holders }

/-- The lock-table part of a session end of port `p`: its entry and its hold are removed, and a lock so changed is
re-evaluated (R27, R28). -/
def LockRec.endSession (r : LockRec) (p : Port) : LockChange :=
  if r.heldBy p then ((r.dropWaiter p).dropHolder p).reevaluate
  else if r.queuedBy p then (r.dropWaiter p).reevaluate
  else { record := r }

/-! ### The lease tick on one lock -/

/-- An entry whose wait reaches 0 at this tick (R38). -/
def Waiter.expiring (e : Waiter) : Bool :=
  match e.wait with
  | none => false
  | some n => decide (n ≤ 1)

/-- An entry counted down by one tick; one without a limit is not counted (R37). -/
def Waiter.counted (e : Waiter) : Waiter := { e with wait := e.wait.map (· - 1) }

/-- Step 1 of R36: the entries whose wait ends leave, the others are counted. -/
def LockRec.countWaits (r : LockRec) : LockRec :=
  { r with queue := (r.queue.filter fun e => !e.expiring).map Waiter.counted }

/-- The ports whose waits end at this tick (R38). -/
def LockRec.endedWaits (r : LockRec) : PortSet :=
  PortSet.ofList ((r.queue.filter Waiter.expiring).map Waiter.port)

/-- Whether the lease reaches 0 at this tick (R41). -/
def LockRec.leaseEnds (r : LockRec) : Bool :=
  match r.leaseLeft with
  | none => false
  | some n => decide (n ≤ 1)

/-- Step 2 of R36: a running lease is counted down, and the holders are revoked if it reaches 0 (R40, R41). -/
def LockRec.countLease (r : LockRec) : LockRec :=
  if r.leaseEnds then r.freed else { r with leaseLeft := r.leaseLeft.map (· - 1) }

/-- The tick's work on one lock: wait counting, lease counting, re-evaluation, in this order (R36). -/
def LockRec.tick (r : LockRec) : LockChange :=
  { r.countWaits.countLease.reevaluate with
    revoked := if r.leaseEnds then r.holders else 0
    waitEnd := r.endedWaits }

/-- The wait expiry of port `p`'s entry as an event of its own: an entry whose wait the next count brings to 0 leaves the
queue with its WAITEND bit, and the lock is re-evaluated (R38, R39; log entry 5). -/
def LockRec.waitExpiry (r : LockRec) (p : Port) : LockChange :=
  if r.queue.any fun e => e.port == p && e.expiring then
    { (r.dropWaiter p).reevaluate with waitEnd := PortSet.ofList [p] }
  else { record := r }

/-- The lease expiry as an event of its own: a lease that the next count brings to 0 ends, the holders are revoked and the
head batch is granted (R41; log entry 5). -/
def LockRec.leaseExpiry (r : LockRec) : LockChange :=
  if r.leaseEnds then { r.freed.reevaluate with revoked := r.holders } else { record := r }

/-! ### The work of the lock commands -/

/-- Check 1 of a lock command: the lock number in ARG0, or BAD_LOCK (R7, R16, R18, R19, R21, R22, R24). -/
def State.withLock (s : State) (p : Port) (k : LockNo → Reply) : Reply :=
  match lockField (s.arg p 0) with
  | none => { state := s, result := .badLock }
  | some l => k l

/-- LATE or NOT_HOLDER: a port that is no holder is told by its REVOKED bit whether it lost the lock (R17). -/
def State.notHolder (s : State) (p : Port) (l : LockNo) : Result :=
  if (s.port p).revoked.has l then .late else .notHolder

/-- ACQUIRE's decision once its checks have passed (R9, R11). -/
def State.decideAcquire (s : State) (p : Port) (l : LockNo) (a : AcquireArgs) : Reply :=
  if (s.lock l).grantable a.mode then
    { state := s.onLock l fun r => { record := r.grant a.mode [p] }, result := .granted,
      words := [ticksWord ((s.lock l).grant a.mode [p]).leaseLeft] }
  else if a.wait = false then { state := s, result := .busy }
  else if s.freeEntries = 0 then { state := s, result := .noEntry }
  else
    { state := s.onLock l fun r =>
        r.enqueue { port := p, mode := a.mode, wait := if a.limit = 0 then none else some a.limit },
      result := .queued, words := [numWord ((s.lock l).queue.length + 1)] }

/-- ACQUIRE's work (R7, R8, R9, R11). -/
def acquireWork (p : Port) (s : State) : Reply :=
  s.withLock p fun l =>
    if (s.lock l).enabled = false then { state := s, result := .badLock }
    else match acquireArgs (s.arg p 1) (s.arg p 2) (s.arg p 3) with
      | none => { state := s, result := .badArg }
      | some a =>
        if (s.lock l).heldBy p then { state := s, result := .alreadyHeld }
        else if (s.lock l).queuedBy p then { state := s, result := .alreadyQueued }
        else s.decideAcquire p l a

/-- RELEASE's work (R16, R17). -/
def releaseWork (p : Port) (s : State) : Reply :=
  s.withLock p fun l =>
    if (s.lock l).heldBy p then { state := s.onLock l fun r => r.release p, result := .ok }
    else { state := s, result := s.notHolder p l }

/-- RENEW's work (R18). -/
def renewWork (p : Port) (s : State) : Reply :=
  s.withLock p fun l =>
    if (s.lock l).heldBy p then
      { state := s.onLock l fun r => { record := r.renewed }, result := .ok,
        words := [ticksWord (s.lock l).renewed.leaseLeft] }
    else { state := s, result := s.notHolder p l }

/-- WITHDRAW's work (R19, R20). -/
def withdrawWork (p : Port) (s : State) : Reply :=
  s.withLock p fun l =>
    if (s.lock l).queuedBy p then { state := s.onLock l fun r => r.withdraw p, result := .ok }
    else { state := s, result := if (s.lock l).heldBy p then .held else .notQueued }

/-- The two result words of a queue position (Table 10-7): present, requested mode and port; wait remaining. -/
def entryWords : Option Waiter → List Word
  | none => [0, 0]
  | some e =>
    [(1#1 ++ 0#5 ++ e.mode.code ++ 0#6 ++ BitVec.ofNat 2 e.port.val : BitVec (1 + 5 + 2 + 6 + 2)), ticksWord e.wait]

/-- RES0 of LOCK_STATUS (Table 10-7). -/
def LockRec.summary (r : LockRec) : Word :=
  (0#6 ++ BitVec.ofNat 2 r.queue.length ++ r.holders ++ 0#1 ++ r.mode.code ++ BitVec.ofBool r.enabled
    : BitVec (6 + 2 + 4 + 1 + 2 + 1))

/-- The result words of LOCK_STATUS (R21, Table 10-7). -/
def LockRec.statusWords (r : LockRec) : List Word :=
  [r.summary, numWord r.leaseLength, ticksWord r.leaseLeft]
    ++ entryWords r.queue[0]? ++ entryWords r.queue[1]? ++ entryWords r.queue[2]?

/-- LOCK_STATUS's work (R21). -/
def lockStatusWork (p : Port) (s : State) : Reply :=
  s.withLock p fun l => { state := s, result := .ok, words := (s.lock l).statusWords }

/-- SET_LOCK's work (R22). -/
def setLockWork (p : Port) (s : State) : Reply :=
  s.withLock p fun l =>
    match setLockArgs (s.arg p 1) (s.arg p 2) with
    | none => { state := s, result := .badArg }
    | some (e, n) =>
      if (s.lock l).holders ≠ 0 ∨ (s.lock l).queue ≠ [] then { state := s, result := .inUse }
      else { state := s.onLock l fun r => { record := { r with enabled := e, leaseLength := n } }, result := .ok }

/-- BREAK's work (R24, R25). -/
def breakWork (p : Port) (s : State) : Reply :=
  s.withLock p fun l =>
    match flagField (s.arg p 1) with
    | none => { state := s, result := .badArg }
    | some flush => { state := s.onLock l fun r => r.broken flush, result := .ok }

end Sys2Proof.Machine
end

