-- ==== Sys2Proof/Machine/Windows.lean ====
section
/-! DEFINITION. The window unit (Chapter 3): lookup, checks, guard queries, and the window commands. -/

namespace Sys2Proof.Machine

/-! ### Lookup -/

/-- Whether an enabled window's range [view base, view base + 2^k) contains a view address (R56, R57, R58). -/
def Window.covers (w : Window) (v : Word) : Bool :=
  w.enabled && decide (w.viewBase.toNat ≤ v.toNat) && decide (v.toNat < w.viewBase.toNat + 2 ^ w.size)

/-- The memory address a window maps a view address to: target base + (v - view base) (R58). -/
def Window.translate (w : Window) (v : Word) : MemAddr := w.targetBase + (v - w.viewBase).setWidth 15

/-- The last view address of a window. -/
def Window.last (w : Window) : Word := w.viewBase + BitVec.ofNat 16 (2 ^ w.size - 1)

/-- The result of a lookup (R58). -/
inductive Lookup where
  /-- The hit window and the memory address. -/
  | hit (i : WindowNo) (a : MemAddr)
  /-- A default address and its memory address. -/
  | default (a : MemAddr)
  | unmapped
deriving DecidableEq, Repr

/-- The hit window: the enabled window with the lowest index whose range contains the view address (R58, R59). -/
def State.hitWindow (s : State) (v : Word) : Option WindowNo :=
  (List.finRange 16).find? fun i => (s.window i).covers v

/-- The lookup of a view address (R58). The port does not enter it. -/
def State.lookup (s : State) (v : Word) : Lookup :=
  match s.hitWindow v with
  | some i => .hit i ((s.window i).translate v)
  | none => if v.toNat < 0x8000 then .default (v.setWidth 15) else .unmapped

/-- The memory address of a lookup result. -/
def Lookup.mem? : Lookup → Option MemAddr
  | .hit _ a => some a
  | .default a => some a
  | .unmapped => none

/-- The hit window of a lookup result. -/
def Lookup.window? : Lookup → Option WindowNo
  | .hit i _ => some i
  | .default _ => none
  | .unmapped => none

/-- The next view address within the serving range of the lookup of `v` (R58, R83 WRAP, R84): the hit window's view range, or
0000H to 7FFFH for a default result. -/
def State.wrapNext (s : State) (v : Word) : Word :=
  match s.lookup v with
  | .hit i _ => if v = (s.window i).last then (s.window i).viewBase else v + 1
  | .default _ => if v = 0x7FFF then 0 else v + 1
  | .unmapped => v

/-! ### Checks -/

/-- The guard query "does p hold L exclusively?"; no for a disabled lock (R26). -/
def State.holdsExclusively (s : State) (p : Port) (l : LockNo) : Bool :=
  (s.lock l).enabled && (s.lock l).mode == .exclusive && (s.lock l).heldBy p

/-- The guard query "does p hold L at all?"; no for a disabled lock (R26). -/
def State.holdsAtAll (s : State) (p : Port) (l : LockNo) : Bool :=
  (s.lock l).enabled && (s.lock l).heldBy p

/-- Check 3 of R61 for a window: a write asks for an exclusive hold of the guard lock, a read with guard reads set asks for any
hold, and a window without a guard lock asks nothing. -/
def State.guardAllows (s : State) (p : Port) (w : Window) (d : Dir) : Bool :=
  match w.guard with
  | none => true
  | some l =>
    match d with
    | .write => s.holdsExclusively p l
    | .read => !w.guardReads || s.holdsAtAll p l

/-- The outcome of a check: permitted with the memory address, or refused (R61, R62). -/
inductive Check where
  | permitted (a : MemAddr)
  | refused (why : Refused)
deriving DecidableEq, Repr

/-- The checks of R61, in their order, for port `p` at view address `v` in direction `d`. -/
def State.check (s : State) (p : Port) (v : Word) (d : Dir) : Check :=
  match s.lookup v with
  | .unmapped => .refused .unmapped
  | .default a => if rightFor s.defaultRights p d then .permitted a else .refused .rights
  | .hit i a =>
    if rightFor (s.window i).rights p d = false then .refused .rights
    else if s.guardAllows p (s.window i) d = false then .refused .guard
    else .permitted a

/-- The guard lock of the hit window at a view address, where there is one. -/
def State.guardAt (s : State) (v : Word) : Option LockNo :=
  match s.lookup v with
  | .hit i _ => (s.window i).guard
  | .default _ => none
  | .unmapped => none

/-! ### The work of the window commands -/

/-- The code of a lookup kind (Table 10-2). -/
def Lookup.code : Lookup → Word
  | .hit _ _ => 0
  | .default _ => 1
  | .unmapped => 2

/-- The code of a check outcome (Table 10-2). -/
def Check.code : Check → Word
  | .permitted _ => 0
  | .refused why => why.code.setWidth 16

/-- A memory address as a result word; 0000H when there is none (R185). -/
def memWord : Option MemAddr → Word
  | none => 0
  | some a => a.setWidth 16

/-- The result words of PROBE (R72, Table 10-10). -/
def State.probeWords (s : State) (p : Port) (v : Word) (d : Dir) : List Word :=
  [(s.lookup v).code, presentWord ((s.lookup v).window?.map Fin.val), memWord (s.lookup v).mem?,
   presentWord ((s.guardAt v).map Fin.val), (s.check p v d).code]

/-- PROBE's work (R72, R73): it changes nothing. -/
def probeWork (p : Port) (s : State) : Reply :=
  match probeArgs (s.arg p 1) (s.arg p 2) with
  | none => { state := s, result := .badArg }
  | some (q, d) => { state := s, result := .ok, words := s.probeWords q (s.arg p 0) d }

/-- RES6 of GET_WINDOW: bit 9 guard reads as stored, bit 8 guard present, bits 7:0 the guard lock (Table 10-9, R185). -/
def Window.guardWord (w : Window) : Word :=
  (0#6 ++ BitVec.ofBool w.guardReads ++ BitVec.ofBool w.guard.isSome
    ++ BitVec.ofNat 8 (match w.guard with | some l => l.val | none => 0) : BitVec (6 + 1 + 1 + 8))

/-- The result words of GET_WINDOW (R71, Table 10-9). -/
def Window.words (w : Window) (i : WindowNo) : List Word :=
  [numWord i.val, flagWord w.enabled, numWord w.size, w.viewBase, w.targetBase.setWidth 16, w.rights.setWidth 16,
   w.guardWord]

/-- GET_WINDOW's work (R71). -/
def getWindowWork (p : Port) (s : State) : Reply :=
  match windowField (s.arg p 0) with
  | none => { state := s, result := .badArg }
  | some i => { state := s, result := .ok, words := (s.window i).words i }

/-- SET_WINDOW's work: the record is replaced whole (R67, R68). -/
def setWindowWork (p : Port) (s : State) : Reply :=
  match setWindowArgs (s.arg p 0) (s.arg p 1) (s.arg p 2) (s.arg p 3) (s.arg p 4) (s.arg p 5) (s.arg p 6) with
  | none => { state := s, result := .badArg }
  | some (i, w) => { state := s.setWindowRec i w, result := .ok }

/-- SET_DEFAULT_RIGHTS's work: all eight flags in one event (R70). -/
def setDefaultRightsWork (p : Port) (s : State) : Reply :=
  match rightsField (s.arg p 0) with
  | none => { state := s, result := .badArg }
  | some r => { state := { s with defaultRights := r }, result := .ok }

end Sys2Proof.Machine
end

