-- ==== Sys2Proof/Machine/Aperture.lean ====
section
/-! DEFINITION. The memory arbiter and the aperture (Chapter 4): requests, the arbiter's choice, the service of an access, faults
and the fault record, and the words AADDR, AMODE. -/

namespace Sys2Proof.Machine

/-! ### The arbiter -/

/-- A requester's place in the cyclic order P0, P1, P2, P3, engine (R90). -/
def Requester.place : Requester → Fin 5
  | .port p => p.castSucc
  | .engine => 4

/-- The requester at a place of the cyclic order. -/
def Requester.at (i : Fin 5) : Requester :=
  if h : i.val < 4 then .port ⟨i.val, h⟩ else .engine

/-- The requester that follows one in the cyclic order; after the engine the next is P0 (R90). -/
def Requester.following (r : Requester) : Requester := Requester.at (r.place + 1)

/-- Whether a requester is in the waiting set (R89). -/
def State.waits (s : State) : Requester → Bool
  | .port p => (s.port p).request.isSome
  | .engine => s.engine.requesting

/-- The arbiter's choice: the waiting requester that comes first in the cyclic order, counting from the position (R90). -/
def State.choice (s : State) : Option Requester :=
  ((List.finRange 5).map fun k => Requester.at (s.position.place + k)).find? s.waits

/-! ### One access -/

/-- The direction of an access (R81). -/
def AccessKind.dir : AccessKind → Dir
  | .read => .read
  | .write _ => .write

/-- The advance of AADDR after a permitted access (R83). -/
def State.advance (s : State) (m : AdvanceMode) (v : Word) : Word :=
  match m with
  | .hold => v
  | .step => v + 1
  | .wrap => s.wrapNext v

/-- A fault is offered to the fault record: an empty record is filled, a full one keeps its fields with "more" set (R87). -/
def offerFault (old : Option FaultRecord) (new : FaultRecord) : Option FaultRecord :=
  match old with
  | none => some new
  | some f => some { f with more := true }

/-- The record of a refused access (R62, R86, Table 4-3). -/
def State.faultOf (s : State) (why : Refused) (d : Dir) (v : Word) : FaultRecord :=
  { kind := why, dir := d, view := v, mem := (s.lookup v).mem?, window := (s.lookup v).window?,
    guard := (match why with
      | .guard => s.guardAt v
      | .rights => none
      | .unmapped => none),
    more := false }

/-- Whether the ADATA cycle that waits was ended early by the agent: a later cycle is held behind it, or it is the newest and
has been ended (R176). -/
def PortState.accessEndedEarly (r : PortState) : Bool := !r.held.isEmpty || r.cycleEnded

/-- What the agent gets when its ADATA cycle is answered with `w`: the data of a read, lost if it ended the cycle early, or
the end of a write (R82, R176). -/
def PortState.answerFor (r : PortState) (k : AccessKind) (w : Word) : CycleAnswer :=
  match k with
  | .write _ => .done
  | .read => if r.accessEndedEarly then .lost else .data w

/-- The waiting ADATA cycle is answered: its request has left the waiting set, and the answer is given (R82, R90). -/
def PortState.answered (r : PortState) (k : AccessKind) (w : Word) : PortState :=
  { r with request := none, answer := r.answerFor k w }

/-- The service of a permitted access (R82 step 3, R83). -/
def State.servePermitted (s : State) (p : Port) (q : AccessRequest) (a : MemAddr) : State :=
  match q.kind with
  | .read =>
    s.onPort p fun r => { r.answered .read (s.mem.read a.toNat) with aaddr := s.advance r.amode q.view }
  | .write w =>
    { s with mem := s.mem.write a.toNat w }.onPort p fun r =>
      { r.answered (.write w) 0 with aaddr := s.advance r.amode q.view }

/-- The answer to a refused access: FFFFH or a discarded write, no advance, the fault offered to the record (R85, R87). -/
def State.serveRefused (s : State) (p : Port) (q : AccessRequest) (why : Refused) : State :=
  s.onPort p fun r =>
    { r.answered q.kind Config.refusedRead with fault := offerFault r.fault (s.faultOf why q.kind.dir q.view) }

/-- The not-attached answer to an access whose session has ended (R82 step 1, R93). -/
def State.serveNotAttached (s : State) (p : Port) (q : AccessRequest) : State :=
  s.onPort p fun r => r.answered q.kind Config.refusedRead

/-- The service of port `p`'s request when the arbiter grants it (R82). -/
def State.serveAccess (s : State) (p : Port) (q : AccessRequest) : State :=
  if s.attached p = false ∨ (s.port p).session ≠ q.session then s.serveNotAttached p q
  else match s.check p q.view q.kind.dir with
    | .permitted a => s.servePermitted p q a
    | .refused why => s.serveRefused p q why

/-- Port `p`'s waiting request is granted: the position becomes the requester that follows (R90), and the access is served
(R82). -/
def State.grantPort (s : State) (p : Port) : State :=
  match (s.port p).request with
  | none => s
  | some q => { s with position := (Requester.port p).following }.serveAccess p q

/-! ### The cycles of ADATA and AMODE -/

/-- Taking an ADATA cycle (R81): a DETACHED port's is answered at once (R92), an ATTACHED port's places its request. -/
def State.takeAdata (s : State) (p : Port) (k : AccessKind) : State :=
  if s.attached p = true then
    s.onPort p fun r => { r with request := some { kind := k, view := r.aaddr, session := r.session } }
  else s.onPort p fun r => { r with answer := r.answerFor k Config.refusedRead }

/-- A write of AMODE: a valid code sets the mode, any other value leaves it (R80, R184). -/
def State.writeAmode (s : State) (p : Port) (w : Word) : State :=
  match amodeField w with
  | some m => s.onPort p fun r => { r with amode := m }
  | none => s

/-! ### TAKE_FAULT -/

/-- RES0 of TAKE_FAULT (Table 10-15). -/
def FaultRecord.summary (f : FaultRecord) : Word :=
  (0#7 ++ BitVec.ofBool f.more ++ 0#3 ++ f.dir.code ++ 0#2 ++ f.kind.code : BitVec (7 + 1 + 3 + 1 + 2 + 2))

/-- The result words of TAKE_FAULT (Table 10-15). -/
def FaultRecord.words (f : FaultRecord) : List Word :=
  [f.summary, f.view, memWord f.mem, presentWord (f.window.map Fin.val), presentWord (f.guard.map Fin.val)]

/-- TAKE_FAULT's work (R88). -/
def takeFaultWork (p : Port) (s : State) : Reply :=
  match (s.port p).fault with
  | none => { state := s, result := .noRecord }
  | some f => { state := s.onPort p fun r => { r with fault := none }, result := .ok, words := f.words }

end Sys2Proof.Machine
end

