-- ==== Sys2Proof/Machine/Copy.lean ====
section
/-! DEFINITION. The copy engine (Chapter 5): the copy queue, the engine's state, word moves, completion, and the copy commands. -/

namespace Sys2Proof.Machine

/-! ### The engine -/

/-- The engine's step after a change of its queue or of its pause (Table 5-2, R104, R105): PAUSED keeps the queue as it is;
otherwise an empty queue makes it IDLE, and a queue that is not empty makes it RUNNING with the head ACTIVE. Its request waits
at the arbiter exactly while it is RUNNING. -/
def Engine.settle (e : Engine) : Engine :=
  match e.mode, e.queue with
  | .paused, _ => { e with requesting := false }
  | .idle, [] => { e with requesting := false }
  | .running, [] => { e with mode := .idle, requesting := false }
  | .idle, d :: ds => { queue := { d with state := .active } :: ds, mode := .running, requesting := true }
  | .running, d :: ds => { queue := { d with state := .active } :: ds, mode := .running, requesting := true }

/-- Port `p`'s copy count: its descriptors and its uncollected completion records (R100). -/
def State.copyCount (s : State) (p : Port) : Nat :=
  (s.engine.queue.countP fun d => d.requester == p) + (s.port p).completions.length

/-- Free copy slots: 8 less the descriptors in the queue (R98). -/
def State.freeCopySlots (s : State) : Nat := Config.copySlots - s.engine.queue.length

/-- The kind of a descriptor, as its record shows it (Table 5-4). -/
def CopyJob.kind : CopyJob → CopyKind
  | .copy _ => .copy
  | .fill _ => .fill

/-- The completion record of a descriptor that ends with a status (R112). -/
def Descriptor.record (d : Descriptor) (st : CopyStatus) : Completion :=
  { serial := d.serial, tag := d.tag, kind := d.job.kind, status := st, moved := d.moved }

/-- A completion record joins the tail of its requester's completion list (R111, R112). -/
def State.addCompletion (s : State) (p : Port) (c : Completion) : State :=
  s.onPort p fun r => { r with completions := r.completions ++ [c] }

/-- The engine is replaced; nothing else changes. -/
def State.setEngine (s : State) (e : Engine) : State := { s with engine := e }

/-- A descriptor ends: the queue is what is left of it, the record joins the requester's list, and the engine takes the next
step of Table 5-2 (R112). -/
def State.endDescriptor (s : State) (rest : List Descriptor) (d : Descriptor) (st : CopyStatus) : State :=
  (s.setEngine ({ s.engine with queue := rest } : Engine).settle).addCompletion d.requester (d.record st)

/-- The engine's part of a session end of port `p`: its descriptors leave without records (R121). -/
def Engine.dropPort (e : Engine) (p : Port) : Engine :=
  ({ e with queue := e.queue.filter fun d => d.requester != p } : Engine).settle

/-! ### One word move -/

/-- What becomes of one word: it is moved, leaving this memory, or a check refuses it (R106, R109). -/
inductive WordMove where
  | moved (m : Memory)
  | refused (why : Refused) (view : Word) (dir : Dir)
deriving DecidableEq, Repr

/-- The view address of word `i` of a range, modulo 65,536 (R107). -/
def wordAddr (base : Word) (i : Nat) : Word := base + BitVec.ofNat 16 i

/-- The write of a word to the destination of word `i`, if the check for the requester permits it (R106). -/
def State.moveTo (s : State) (d : Descriptor) (w : Word) : WordMove :=
  match s.check d.requester (wordAddr d.dest d.moved) .write with
  | .permitted a => .moved (s.mem.write a.toNat w)
  | .refused why => .refused why (wordAddr d.dest d.moved) .write

/-- The next word of a descriptor: for COPY the source check comes first, then the destination check, then the read and the
write; for FILL the destination check and the write of the pattern (R106, R109). -/
def State.moveWord (s : State) (d : Descriptor) : WordMove :=
  match d.job with
  | .fill pattern => s.moveTo d pattern
  | .copy source =>
    match s.check d.requester (wordAddr source d.moved) .read with
    | .refused why => .refused why (wordAddr source d.moved) .read
    | .permitted a => s.moveTo d (s.mem.read a.toNat)

/-- One word move of the head descriptor `d`, with `rest` behind it (R106, R109, R112). -/
def State.serveWord (s : State) (d : Descriptor) (rest : List Descriptor) : State :=
  match s.moveWord d with
  | .refused why v dir => s.endDescriptor rest d (.refused why v dir)
  | .moved m =>
    if d.moved + 1 = d.length then ({ s with mem := m } : State).endDescriptor rest { d with moved := d.moved + 1 } .done
    else ({ s with mem := m } : State).setEngine
      ({ s.engine with queue := { d with moved := d.moved + 1 } :: rest } : Engine).settle

/-- The engine's request is granted: the position becomes P0 (R90), and one word move is served (R106). -/
def State.grantEngine (s : State) : State :=
  match s.engine.queue with
  | [] => { s with position := Requester.engine.following, engine := s.engine.settle }
  | d :: rest => ({ s with position := Requester.engine.following } : State).serveWord d rest

/-! ### The work of the copy commands -/

/-- Acceptance of a descriptor (R104): the serial counter advances (R99), the descriptor joins the tail, and an IDLE engine
starts it. -/
def State.acceptCopy (s : State) (p : Port) (tag : Byte) (job : CopyJob) (dest : Word) (length : Nat) : State :=
  (s.setEngine ({ s.engine with
      queue := s.engine.queue ++
        [{ requester := p, serial := (s.port p).serial + 1, tag := tag, job := job, dest := dest, length := length,
           moved := 0, state := .queued }] } : Engine).settle).onPort p fun r => { r with serial := r.serial + 1 }

/-- The checks of COPY and FILL, in order, and the acceptance (R103, R104). -/
def State.copyRequest (s : State) (p : Port) (job : CopyJob) : Reply :=
  match copyArgs (s.arg p 0) (s.arg p 3) with
  | none => { state := s, result := .badArg }
  | some (tag, length) =>
    if Config.copiesPerPort ≤ s.copyCount p then { state := s, result := .copyLimit }
    else if Config.copySlots ≤ s.engine.queue.length then { state := s, result := .queueFull }
    else
      { state := s.acceptCopy p tag job (s.arg p 2) length, result := .ok,
        words := [((s.port p).serial + 1).setWidth 16] }

/-- COPY's work: ARG1 is the source view address (R103, R104, Table 10-11). -/
def copyWork (p : Port) (s : State) : Reply := s.copyRequest p (.copy (s.arg p 1))

/-- FILL's work: ARG1 is the pattern word (R103, R104, Table 10-11). -/
def fillWork (p : Port) (s : State) : Reply := s.copyRequest p (.fill (s.arg p 1))

/-- Whether a descriptor is the issuing port's and has the serial (R114). -/
def Descriptor.named (p : Port) (n : Byte) (d : Descriptor) : Bool := d.requester == p && d.serial == n

/-- CANCEL_COPY's work (R114, R115, R116): the oldest descriptor of the port with the serial ends CANCELLED. -/
def cancelCopyWork (p : Port) (s : State) : Reply :=
  match byteField (s.arg p 0) with
  | none => { state := s, result := .badArg }
  | some n =>
    match s.engine.queue.find? (Descriptor.named p n) with
    | some d => { state := s.endDescriptor (s.engine.queue.eraseP (Descriptor.named p n)) d .cancelled, result := .ok }
    | none =>
      if (s.port p).completions.any fun c => c.serial == n then { state := s, result := .complete }
      else { state := s, result := .noSuchCopy }

/-- RES2 of TAKE_COMPLETION (Table 10-12). -/
def Completion.summary (c : Completion) : Word :=
  (0#6 ++ (match c.status with
      | .refused _ _ d => d.code
      | .done => 0#1
      | .cancelled => 0#1) ++ c.kind.code ++ 0#5 ++ c.status.code : BitVec (6 + 1 + 1 + 5 + 3))

/-- The fault view address of a record; 0000H when absent (R185). -/
def Completion.faultView (c : Completion) : Word :=
  match c.status with
  | .refused _ v _ => v
  | .done => 0
  | .cancelled => 0

/-- The result words of TAKE_COMPLETION (Table 10-12). -/
def Completion.words (c : Completion) : List Word :=
  [c.serial.setWidth 16, c.tag.setWidth 16, c.summary, numWord c.moved, c.faultView]

/-- TAKE_COMPLETION's work (R113). -/
def takeCompletionWork (p : Port) (s : State) : Reply :=
  match (s.port p).completions with
  | [] => { state := s, result := .noRecord }
  | c :: cs => { state := s.onPort p fun r => { r with completions := cs }, result := .ok, words := c.words }

/-- PAUSE_COPY's work (R117): the engine becomes PAUSED and its request is withdrawn. -/
def pauseCopyWork (_p : Port) (s : State) : Reply :=
  { state := s.setEngine { s.engine with mode := .paused, requesting := false }, result := .ok }

/-- RESUME_COPY's work (R118): a PAUSED engine runs its queue again, or becomes IDLE. -/
def resumeCopyWork (_p : Port) (s : State) : Reply :=
  match s.engine.mode with
  | .paused => { state := s.setEngine ({ s.engine with mode := .idle } : Engine).settle, result := .ok }
  | .idle => { state := s, result := .ok }
  | .running => { state := s, result := .ok }

/-! ### The grant of a word move -/

/-- COPY_WORD_MOVE: the arbiter grants the engine's request if that is its choice (R90, R106); otherwise no word is moved and
nothing changes (log entry 10). -/
def execCopyWordMove (s : State) : Host.Outcome State Fault Refusal :=
  .next (match s.choice with
    | some .engine => s.grantEngine
    | some (.port _) => s
    | none => s)

end Sys2Proof.Machine
end

