-- ==== Sys2Proof/Machine/Flags.lean ====
section
/-! DEFINITION. What a port shows without a command: the event classes and EVSUM (R161, R162), the notification line NTFn (R164),
RDY (R181), PSTAT (R156), and the read of every word of the register window (R178). -/

namespace Sys2Proof.Machine

/-- The seven event classes (Table 8-3). -/
inductive EventClass where
  | grt
  | rvk
  | wte
  | msg
  | cpy
  | flt
  | per
deriving DecidableEq, Repr

/-- The class at a bit of EVSUM (Table 10-5). -/
def EventClass.at (i : Fin 7) : EventClass :=
  match i with
  | 0 => .grt
  | 1 => .rvk
  | 2 => .wte
  | 3 => .msg
  | 4 => .cpy
  | 5 => .flt
  | 6 => .per

/-- Whether a class of the port is pending: the condition of Table 8-3 (R161). -/
def PortState.classPending (r : PortState) : EventClass → Bool
  | .grt => r.granted != 0
  | .rvk => r.revoked != 0
  | .wte => r.waitEnd != 0
  | .msg => !r.inbox.isEmpty
  | .cpy => !r.completions.isEmpty
  | .flt => r.fault.isSome
  | .per => r.peerUp != 0 || r.peerDown != 0

/-- The set of the pending classes of a port (R161, R162). -/
def PortState.pendingClasses (r : PortState) : ClassSet :=
  BitVec.ofFnLE fun i => r.classPending (EventClass.at i)

/-- NTFn is asserted exactly while the port is ATTACHED and at least one of its pending classes is enabled (R164). -/
def State.ntfAsserted (s : State) (p : Port) : Bool :=
  s.attached p && ((s.port p).pendingClasses &&& (s.port p).enables) != 0

/-- PnRDY: not driven while the port is DOWN (`none`), low while a cycle of the port is stretched, high otherwise (R181). -/
def State.rdy (s : State) (p : Port) : Option Bool :=
  if (s.port p).mode = .down then none else some (!(s.port p).busy)

/-- The word PSTAT (Table 10-4). -/
def State.pstat (s : State) (p : Port) : Word :=
  (0#4 ++ BitVec.ofNat 2 ((s.control.getD 0).val) ++ BitVec.ofBool (s.isControl p) ++ BitVec.ofBool (s.attached p)
    ++ (s.port p).session : BitVec (4 + 2 + 1 + 1 + 8))

/-- The words of the register window (Table 10-1). -/
inductive WindowWord where
  | cmdStatus
  | plain (r : PlainWord)
  | evenSet
  | evenClr
  | adata
  | amode
deriving DecidableEq, Repr

/-- The word at an offset of the register window (Table 10-1). -/
def WindowWord.at (o : Fin 32) : WindowWord :=
  if o = 0x00 then .cmdStatus
  else if o.val ≤ 0x08 then .plain (.arg (Fin.ofNat 8 (o.val - 0x01)))
  else if o.val ≤ 0x12 then .plain (.res (Fin.ofNat 10 (o.val - 0x09)))
  else if o = 0x13 then .plain .evsum
  else if o = 0x14 then .plain .even
  else if o = 0x15 then .evenSet
  else if o = 0x16 then .evenClr
  else if o = 0x17 then .plain .aaddr
  else if o = 0x18 then .adata
  else if o = 0x19 then .amode
  else if o = 0x1A then .plain .pstat
  else .plain (.reserved (Fin.ofNat 5 (o.val - 0x1B)))

/-- What a read of a window word returns (Table 9-3); none where the read is no plain read: the bus of a DOWN port does not
respond, a cycle is held while an earlier one is unanswered, and a read of ADATA is an access (ADATA_READ). -/
def State.readWord (s : State) (p : Port) (w : WindowWord) : Option Word :=
  if (s.port p).mode = .down ∨ (s.port p).busy = true then none
  else match w with
    | .cmdStatus => some (s.port p).status
    | .plain (.arg i) => some (s.port p).args[i]
    | .plain (.res i) => some (s.port p).res[i]
    | .plain .evsum => some ((s.port p).pendingClasses.setWidth 16)
    | .plain .even => some ((s.port p).enables.setWidth 16)
    | .plain .aaddr => some (s.port p).aaddr
    | .plain .pstat => some (s.pstat p)
    | .plain (.reserved _) => some 0
    | .evenSet => some 0
    | .evenClr => some 0
    | .adata => none
    | .amode => some ((s.port p).amode.code.setWidth 16)

end Sys2Proof.Machine
end

