-- ==== Sys2Proof/Machine/Events.lean ====
section
/-! DEFINITION. The event unit's words and takes (Chapter 8), the other register writes, POOL_STATUS and the bus cycle
that the agent ends early (Chapter 9). -/

namespace Sys2Proof.Machine

/-! ### Takes -/

/-- A lock set as two result words, the word for L0 to L15 first (R186, Table 10-8). -/
def LockSet.words (s : LockSet) : List Word := [s.extractLsb' 0 16, s.extractLsb' 16 16]

/-- TAKE_LOCK_EVENTS's work: the three sets are returned and emptied in one event (R166). -/
def takeLockEventsWork (p : Port) (s : State) : Reply :=
  { state := s.onPort p fun r => { r with granted := 0, revoked := 0, waitEnd := 0 }, result := .ok,
    words := LockSet.words (s.port p).granted ++ LockSet.words (s.port p).revoked ++ LockSet.words (s.port p).waitEnd }

/-- The set of the ports that are ATTACHED (R168). -/
def State.attachedSet (s : State) : PortSet := PortSet.of fun p => s.attached p

/-- TAKE_PEER_EVENTS's work (R168). -/
def takePeerEventsWork (p : Port) (s : State) : Reply :=
  { state := s.onPort p fun r => { r with peerUp := 0, peerDown := 0 }, result := .ok,
    words := [(s.port p).peerUp.setWidth 16, (s.port p).peerDown.setWidth 16, s.attachedSet.setWidth 16] }

/-- A value of POOL_STATUS as its block stands (R177). -/
def State.poolValue (s : State) : PoolValue → Word
  | .messageSlots => numWord s.freeSlots
  | .copySlots => numWord s.freeCopySlots
  | .engineState => s.engine.mode.code.setWidth 16
  | .tickDivider => s.divider.setWidth 16

/-- POOL_STATUS as its first event takes it (R177): the port's state is tested, and the lock table is read. The command goes on in
the reads of the other four values. -/
def State.beginPoolStatus (s : State) (p : Port) : State :=
  if s.attached p = false then s.post p 0x60 .notAttached []
  else s.onPort p fun r =>
    { r with
      command := some (.reading [numWord s.freeEntries] [.messageSlots, .copySlots, .engineState, .tickDivider]) }

/-- A POOL_STATUS ends with these values: the result is OK (R177). -/
def State.postPoolStatus (s : State) (p : Port) (values : List Word) : State := s.post p 0x60 .ok values

/-! ### Register writes -/

/-- The classes flagged in a word written to EVEN_SET or EVEN_CLR; bits 15:7 are ignored (R163, Table 10-5). -/
def classFlags (w : Word) : ClassSet := w.setWidth 7

/-- A write of EVEN_SET: the flagged classes are added while the port is ATTACHED, and ignored otherwise (R163). -/
def State.writeEvenSet (s : State) (p : Port) (w : Word) : State :=
  if s.attached p = true then s.onPort p fun r => { r with enables := r.enables ||| classFlags w } else s

/-- A write of EVEN_CLR: the flagged classes are removed (R163). -/
def State.writeEvenClr (s : State) (p : Port) (w : Word) : State :=
  s.onPort p fun r => { r with enables := r.enables &&& ~~~(classFlags w) }

/-- A write of a plain word: ARG and AADDR store the value, the others ignore it (R79, R175, R178). -/
def State.writePlain (s : State) (p : Port) (r : PlainWord) (w : Word) : State :=
  match r with
  | .arg i => s.onPort p fun t => { t with args := Vector.ofFn fun j => if j = i then w else t.args[j] }
  | .aaddr => s.onPort p fun t => { t with aaddr := w }
  | .res _ => s
  | .evsum => s
  | .even => s
  | .pstat => s
  | .reserved _ => s

/-! ### The early end of a cycle -/

/-- The agent ends the newest unanswered cycle of the port early; the access or command still completes (R176). A port
without an unanswered cycle is not changed (log entry 9). -/
def State.endCycleEarly (s : State) (p : Port) : State :=
  if (s.port p).busy = true then s.onPort p fun r => { r with cycleEnded := true } else s

/-! ### The meanings -/

/-- CYCLE_ENDED_EARLY (R176). -/
def execCycleEndedEarly (p : Port) (s : State) : Host.Outcome State Fault Refusal := .next (s.endCycleEarly p)

end Sys2Proof.Machine
end

