-- ==== Sys2Proof/Machine/Messages.lean ====
section
/-! DEFINITION. The message unit (Chapter 6): SEND, RECEIVE, MSG_STATUS and SET_QUOTA. -/

namespace Sys2Proof.Machine

/-- The payload of a SEND of length `n`: the first `n` of ARG1 to ARG7 (R128, R129, Table 10-13). -/
def State.payload (s : State) (p : Port) (n : Nat) : List Word :=
  [s.arg p 1, s.arg p 2, s.arg p 3, s.arg p 4, s.arg p 5, s.arg p 6, s.arg p 7].take n

/-- A message joins the tail of a port's receive queue (R126, R129). -/
def State.deliver (s : State) (d : Port) (m : Message) : State :=
  s.onPort d fun r => { r with inbox := r.inbox ++ [m] }

/-- SEND's work: the checks in the order of R128, then the acceptance of R129. -/
def sendWork (p : Port) (s : State) : Reply :=
  match sendArgs (s.arg p 0) with
  | none => { state := s, result := .badArg }
  | some a =>
    if s.attached a.dest = false then { state := s, result := .destDown }
    else if (s.port a.dest).quota ≤ (s.port a.dest).inbox.length then { state := s, result := .full }
    else if s.freeSlots = 0 then { state := s, result := .noSlot }
    else
      { state := s.deliver a.dest
          { source := p, session := (s.port p).session, tag := a.tag, payload := s.payload p a.length },
        result := .ok }

/-- RES0 of RECEIVE (Table 10-14). -/
def Message.summary (m : Message) : Word :=
  (0#2 ++ BitVec.ofNat 2 m.source.val ++ BitVec.ofNat 4 m.payload.length ++ m.tag : BitVec (2 + 2 + 4 + 8))

/-- The result words of RECEIVE (R133, Table 10-14): payload words beyond the length read 0000H. -/
def Message.words (m : Message) (remaining : Nat) : List Word :=
  [m.summary, m.session.setWidth 16,
   m.payload.getD 0 0, m.payload.getD 1 0, m.payload.getD 2 0, m.payload.getD 3 0, m.payload.getD 4 0,
   m.payload.getD 5 0, m.payload.getD 6 0, numWord remaining]

/-- RECEIVE's work (R133). -/
def receiveWork (p : Port) (s : State) : Reply :=
  match (s.port p).inbox with
  | [] => { state := s, result := .empty }
  | m :: ms => { state := s.onPort p fun r => { r with inbox := ms }, result := .ok, words := m.words ms.length }

/-- MSG_STATUS's work (R135). -/
def msgStatusWork (p : Port) (s : State) : Reply :=
  { state := s, result := .ok,
    words := [numWord (s.port p).inbox.length, numWord (s.port p).quota, numWord s.freeSlots] }

/-- SET_QUOTA's work (R136). -/
def setQuotaWork (p : Port) (s : State) : Reply :=
  match quotaArgs (s.arg p 0) (s.arg p 1) with
  | none => { state := s, result := .badArg }
  | some (t, q) =>
    if q < (s.port t).inbox.length then { state := s, result := .inUse }
    else { state := s.onPort t fun r => { r with quota := q }, result := .ok }

end Sys2Proof.Machine
end

