-- ==== Sys2Proof/Machine/Sessions.lean ====
section
/-! DEFINITION. Port sessions and resets (Chapter 7): ATTACH, DETACH, EVICT, the session end every block takes part in, chip reset
and port reset. -/

namespace Sys2Proof.Machine

/-! ### Session start and end -/

/-- The session number advanced by an ATTACH: 255 is followed by 1 (R147). -/
def nextSession (n : Byte) : Byte := if n = 255 then 1 else n + 1

/-- A PEER_UP bit for `p` is set in every other ATTACHED port (R154). -/
def State.announceUp (s : State) (p : Port) : State :=
  s.mapPorts fun q r => if q ≠ p ∧ r.mode = .attached then { r with peerUp := r.peerUp.insert p } else r

/-- A PEER_DOWN bit for `p` is set in every other ATTACHED port (R154). -/
def State.announceDown (s : State) (p : Port) : State :=
  s.mapPorts fun q r => if q ≠ p ∧ r.mode = .attached then { r with peerDown := r.peerDown.insert p } else r

/-- The part of a session end that the port's own record takes: the new port state; event sets emptied and enables cleared
(R169); fault record emptied (R95); receive queue emptied (R138); completion list emptied (R121). -/
def PortState.endSession (r : PortState) (m : PortMode) : PortState :=
  { r with
    mode := m, granted := 0, revoked := 0, waitEnd := 0, peerUp := 0, peerDown := 0, enables := 0,
    fault := none, inbox := [], completions := [] }

/-- A session end of port `p`, one event with a part at every block (R153, Table 7-2): the port's record, the lock table (R27,
R28), the copy engine (R121), and the PEER_DOWN bits of the others (R154). -/
def State.endSession (s : State) (p : Port) (m : PortMode) : State :=
  (((s.onPort p fun r => r.endSession m).lockEvent fun _ r => r.endSession p).setEngine
    (s.engine.dropPort p)).announceDown p

/-! ### The work of the session commands -/

/-- ATTACH, taken by the session unit without step 2 of R173 (R148). -/
def State.attach (s : State) (p : Port) : State :=
  if s.attached p = true then s.post p 0x01 .alreadyAttached []
  else
    ((s.onPort p fun r => { r with mode := .attached, session := nextSession r.session }).announceUp p).post p 0x01 .ok
      [(nextSession (s.port p).session).setWidth 16, flagWord (s.isControl p)]

/-- DETACH's work (R150). -/
def detachWork (p : Port) (s : State) : Reply :=
  { state := s.endSession p .detached, result := .ok }

/-- EVICT's work (R151). -/
def evictWork (p : Port) (s : State) : Reply :=
  match evictArg p (s.arg p 0) with
  | none => { state := s, result := .badArg }
  | some t =>
    if s.attached t = false then { state := s, result := .targetDown }
    else { state := s.endSession t .detached, result := .ok }

/-! ### Resets -/

/-- The port-local words take their reset values, the cycle in progress is abandoned and a waiting access is withdrawn (R145,
R94, R176, R179). Session number, control flag, quota and serial counter keep their values. -/
def PortState.portReset (r : PortState) : PortState :=
  { r with
    mode := .down, status := 0, args := Vector.replicate 8 0, res := Vector.replicate 10 0, aaddr := 0, amode := .hold,
    enables := 0, request := none, command := none, cycleEnded := false, held := [], answer := .none }

/-- PRSTn of port `p` asserted (R145). -/
def State.assertPortReset (s : State) (p : Port) : State :=
  match (s.port p).mode with
  | .down => s.onPort p fun r => { r with prstAsserted := true }
  | .detached => s.onPort p fun r => { r.portReset with prstAsserted := true }
  | .attached => (s.endSession p .down).onPort p fun r => { r.portReset with prstAsserted := true }

/-- PRSTn of port `p` negated: a DOWN port becomes DETACHED unless RESETn is asserted (R146). -/
def State.negatePortReset (s : State) (p : Port) : State :=
  s.onPort p fun r =>
    { r with
      prstAsserted := false
      mode := if s.resetAsserted = false ∧ r.mode = .down then .detached else r.mode }

/-- RESETn asserted: every block takes its reset values; the shared memory and the levels of the PRSTn inputs stay, and so does
the model's queue (R143, R30, R51, R75, R76, R96, R123, R140, R170, R179). -/
def State.assertReset (s : State) : State :=
  { State.reset with
    ports := Vector.ofFn fun p => { PortState.reset with prstAsserted := (s.port p).prstAsserted }
    mem := s.mem
    pending := s.pending }

/-- RESETn negated with CSEL[1:0] at `csel`: the straps are sampled, and each port whose PRSTn is negated becomes DETACHED
(R143, R144). Without RESETn asserted before, there is no negation and nothing changes. -/
def State.negateReset (s : State) (csel : Port) : State :=
  if s.resetAsserted = false then s
  else
    { s with resetAsserted := false, control := some csel }.mapPorts fun _ r =>
      if r.prstAsserted then r else { r with mode := .detached }

/-! ### The meanings -/

/-- RESETN_ASSERTED (R143). -/
def execResetnAsserted (s : State) : Host.Outcome State Fault Refusal := .next s.assertReset

/-- RESETN_NEGATED (R143, R144). -/
def execResetnNegated (csel : Port) (s : State) : Host.Outcome State Fault Refusal := .next (s.negateReset csel)

/-- PRSTN_ASSERTED (R145). -/
def execPrstnAsserted (p : Port) (s : State) : Host.Outcome State Fault Refusal := .next (s.assertPortReset p)

/-- PRSTN_NEGATED (R146). -/
def execPrstnNegated (p : Port) (s : State) : Host.Outcome State Fault Refusal := .next (s.negatePortReset p)

end Sys2Proof.Machine
end

