-- ==== Sys2Proof/Machine/Timer.lean ====
section
/-! DEFINITION. The lease timer (Chapter 2): SET_TICK, the lease tick and its two expiries, and the passing of one CLK period. -/

namespace Sys2Proof.Machine

/-- The tick period in CLK periods, (D + 1) × 256 (R31). -/
def State.tickPeriod (s : State) : Nat := (s.divider.toNat + 1) * Config.clocksPerTickUnit

/-- The lease tick: the running count starts again from 0, and the lock table does the tick's work on each of the 32 locks in
one event (R31, R35, R36). -/
def State.tick (s : State) : State :=
  { s with count := 0 }.lockEvent fun _ r => r.tick

/-- One period of CLK: the running count advances by one, and the lease tick comes when it reaches the tick period; while
RESETn is asserted the count is held at 0 (R31). A step on an empty queue (log entry 7). -/
def State.clkPeriod (s : State) : State :=
  if s.resetAsserted then s
  else if s.tickPeriod ≤ s.count + 1 then s.tick
  else { s with count := s.count + 1 }

/-- SET_TICK's work (R33). -/
def setTickWork (p : Port) (s : State) : Reply :=
  match byteField (s.arg p 0) with
  | none => { state := s, result := .badArg }
  | some d => { state := { s with divider := d, count := 0 }, result := .ok }

/-- LEASE_TICK: the rest of the tick period passes and the tick is taken; no tick is produced while RESETn is asserted (R31,
R35, R36; log entry 8). -/
def execLeaseTick (s : State) : Host.Outcome State Fault Refusal :=
  .next (if s.resetAsserted then s else s.tick)

/-- WAIT_EXPIRY of port `p`'s entry on lock `l` (R38, R39; log entry 5). -/
def execWaitExpiry (l : LockNo) (p : Port) (s : State) : Host.Outcome State Fault Refusal :=
  .next (s.onLock l fun r => r.waitExpiry p)

/-- LEASE_EXPIRY of lock `l` (R41; log entry 5). -/
def execLeaseExpiry (l : LockNo) (s : State) : Host.Outcome State Fault Refusal :=
  .next (s.onLock l fun r => r.leaseExpiry)

end Sys2Proof.Machine
end

