-- ==== Sys2Proof/Machine/Bus.lean ====
section
/-! DEFINITION. The bus of a port (R81, R171, R176, R180): what each cycle does once it is taken, the answer of a stretched cycle, the
taking of the cycles held behind it, and the start of a cycle. -/

namespace Sys2Proof.Machine

/-! ### The work of a cycle -/

/-- A write of CMD with an assigned code, taken by the owning block (R171). -/
def State.issue (s : State) (c : Instr) (p : Port) (work : State → Reply) : State := s.command p (c.code?.getD 0) work

/-- What a bus cycle does once it is taken; an event that is no bus cycle is never held, and does nothing here. -/
def takeCycle (c : Instr) (s : State) : State :=
  match c with
  | .attach p => s.attach p
  | .detach p => s.issue c p (detachWork p)
  | .evict p => s.issue c p (evictWork p)
  | .acquire p => s.issue c p (acquireWork p)
  | .release p => s.issue c p (releaseWork p)
  | .renew p => s.issue c p (renewWork p)
  | .withdraw p => s.issue c p (withdrawWork p)
  | .lockStatus p => s.issue c p (lockStatusWork p)
  | .setLock p => s.issue c p (setLockWork p)
  | .breakLock p => s.issue c p (breakWork p)
  | .setTick p => s.issue c p (setTickWork p)
  | .probe p => s.issue c p (probeWork p)
  | .getWindow p => s.issue c p (getWindowWork p)
  | .setWindow p => s.issue c p (setWindowWork p)
  | .setDefaultRights p => s.issue c p (setDefaultRightsWork p)
  | .copy p => s.issue c p (copyWork p)
  | .fill p => s.issue c p (fillWork p)
  | .cancelCopy p => s.issue c p (cancelCopyWork p)
  | .takeCompletion p => s.issue c p (takeCompletionWork p)
  | .pauseCopy p => s.issue c p (pauseCopyWork p)
  | .resumeCopy p => s.issue c p (resumeCopyWork p)
  | .send p => s.issue c p (sendWork p)
  | .receive p => s.issue c p (receiveWork p)
  | .msgStatus p => s.issue c p (msgStatusWork p)
  | .setQuota p => s.issue c p (setQuotaWork p)
  | .takeLockEvents p => s.issue c p (takeLockEventsWork p)
  | .takePeerEvents p => s.issue c p (takePeerEventsWork p)
  | .takeFault p => s.issue c p (takeFaultWork p)
  | .poolStatus p => s.beginPoolStatus p
  | .badCommand p w => s.post p (w.setWidth 8) .badCommand []
  | .adataRead p => s.takeAdata p .read
  | .adataWrite p w => s.takeAdata p (.write w)
  | .apertureAccess => s
  | .copyWordMove => s
  | .amodeWrite p w => s.writeAmode p w
  | .evenSet p w => s.writeEvenSet p w
  | .evenClr p w => s.writeEvenClr p w
  | .registerWrite p r w => s.writePlain p r w
  | .leaseTick => s
  | .waitExpiry _ _ => s
  | .leaseExpiry _ => s
  | .resetnAsserted => s
  | .resetnNegated _ => s
  | .prstnAsserted _ => s
  | .prstnNegated _ => s
  | .cycleEndedEarly _ => s

/-! ### The answer of a cycle and the cycles held behind it -/

/-- The cycles held at port `p`, oldest first, are taken once the cycle before them has been answered (R176), up to the first
that is itself stretched; `ended` says whether the agent has ended the newest of them early. A cycle with another behind it was
ended early. -/
def takeHeld (p : Port) (ended : Bool) : List Instr → State → State
  | [], s => s.setHeld p [] false
  | c :: rest, s =>
    let t := takeCycle c (s.setHeld p [] (ended || !rest.isEmpty))
    if (t.port p).stretched then t.setHeld p rest ended else takeHeld p ended rest t

/-- The command of port `p` comes to its end: the values a POOL_STATUS has left are read now, and its result is posted (R174,
R177). Every other command has ended in the event that took it. -/
def State.endCommand (s : State) (p : Port) : State :=
  match (s.port p).command with
  | some (.reading done left) => s.postPoolStatus p (done ++ left.map s.poolValue)
  | some .posted => s
  | none => s

/-- The CMD cycle of port `p`, if one is stretched, is answered when its command has ended (R171). -/
def State.answerCommand (s : State) (p : Port) : State :=
  (s.endCommand p).onPort p fun r => { r with command := none }

/-- The front cycle of port `p` is answered, and the cycles held behind it are taken in the same event (R171, R176; log
entry 4). -/
def State.answerBus (s : State) (p : Port) : State :=
  takeHeld p (s.port p).cycleEnded (s.port p).held (s.answerCommand p)

/-- Every cycle of port `p` that no grant of the arbiter holds up is answered, in at most `n` answers. -/
def State.answerBuses (p : Port) : Nat → State → State
  | 0, s => s
  | n + 1, s => if (s.port p).answerable then State.answerBuses p n (s.answerBus p) else s

/-- What the start of a cycle at port `p` shows to have happened: the agent starts one over unanswered ones only by ending
them early, so they have been answered (R81; log entry 4). An access that waits at the arbiter is answered by a grant only. -/
def State.caughtUp (s : State) (p : Port) : State := State.answerBuses p ((s.port p).held.length + 1) s

/-! ### The start of a cycle -/

/-- The start of a bus cycle of port `p`. A DOWN port's bus does not respond (R141, R180). A cycle started behind one that the
agent has ended early and that is unanswered is held (R176). Otherwise the earlier cycles have been answered and the cycle is
taken; where one of them still waits at the arbiter, none can have been started and nothing changes (R81; log entry 9). -/
def State.cycle (s : State) (p : Port) (c : Instr) : State :=
  if (s.port p).mode = .down then s
  else if (s.port p).busy = true ∧ (s.port p).cycleEnded = true then s.onPort p (PortState.hold c)
  else if ((s.caughtUp p).port p).busy = true then s
  else takeCycle c (s.caughtUp p)

/-! ### The arbiter's grant to a port -/

/-- APERTURE_ACCESS: the arbiter grants the aperture request it chooses (R82, R90), its cycle is answered, and the cycles held
behind it are taken (R176). Where its choice is the engine, or nothing waits, no aperture request is granted and nothing changes
(log entry 10). -/
def execApertureAccess (s : State) : Host.Outcome State Fault Refusal :=
  .next (match s.choice with
    | some (.port p) => takeHeld p (s.port p).cycleEnded (s.port p).held (s.grantPort p)
    | some .engine => s
    | none => s)

/-! ### What the buses do when no command or event is waiting -/

/-- The lowest port whose bus can answer its front cycle (log entry 4). -/
def State.readyCycle (s : State) : Option Port := (List.finRange 4).find? fun p => (s.port p).answerable

/-- What the bus of port `p` does next: a POOL_STATUS makes its next read, and with none left its result is posted (R177); a
command that has ended has its cycle answered (R171). -/
def State.busStep (s : State) (p : Port) : State :=
  match (s.port p).command with
  | some (.reading done (v :: left)) =>
    s.onPort p fun r => { r with command := some (.reading (done ++ [s.poolValue v]) left) }
  | some (.reading done []) => s.postPoolStatus p done
  | some .posted => s.answerBus p
  | none => s.answerBus p

end Sys2Proof.Machine
end

