-- ==== Sys2Proof/Machine/Commands.lean ====
section
/-! DEFINITION. The meanings of the bus cycles, one for each row of the table that is a cycle of a port: each starts its cycle, and
`takeCycle` says what it does once it is taken. -/

namespace Sys2Proof.Machine

/-! ### Sessions -/

/-- ATTACH (R148). -/
def execAttach (p : Port) (s : State) : Host.Outcome State Fault Refusal :=
  .next (s.cycle p (.attach p))

/-- DETACH (R150). -/
def execDetach (p : Port) (s : State) : Host.Outcome State Fault Refusal :=
  .next (s.cycle p (.detach p))

/-- EVICT (R151). -/
def execEvict (p : Port) (s : State) : Host.Outcome State Fault Refusal :=
  .next (s.cycle p (.evict p))

/-! ### Locks and the lease timer -/

/-- ACQUIRE (R7 to R11). -/
def execAcquire (p : Port) (s : State) : Host.Outcome State Fault Refusal :=
  .next (s.cycle p (.acquire p))

/-- RELEASE (R16, R17). -/
def execRelease (p : Port) (s : State) : Host.Outcome State Fault Refusal :=
  .next (s.cycle p (.release p))

/-- RENEW (R18). -/
def execRenew (p : Port) (s : State) : Host.Outcome State Fault Refusal :=
  .next (s.cycle p (.renew p))

/-- WITHDRAW (R19, R20). -/
def execWithdraw (p : Port) (s : State) : Host.Outcome State Fault Refusal :=
  .next (s.cycle p (.withdraw p))

/-- LOCK_STATUS (R21). -/
def execLockStatus (p : Port) (s : State) : Host.Outcome State Fault Refusal :=
  .next (s.cycle p (.lockStatus p))

/-- SET_LOCK (R22, R23). -/
def execSetLock (p : Port) (s : State) : Host.Outcome State Fault Refusal :=
  .next (s.cycle p (.setLock p))

/-- BREAK (R24, R25). -/
def execBreakLock (p : Port) (s : State) : Host.Outcome State Fault Refusal :=
  .next (s.cycle p (.breakLock p))

/-- SET_TICK (R33). -/
def execSetTick (p : Port) (s : State) : Host.Outcome State Fault Refusal :=
  .next (s.cycle p (.setTick p))

/-! ### Windows -/

/-- PROBE (R72, R73). -/
def execProbe (p : Port) (s : State) : Host.Outcome State Fault Refusal :=
  .next (s.cycle p (.probe p))

/-- GET_WINDOW (R71). -/
def execGetWindow (p : Port) (s : State) : Host.Outcome State Fault Refusal :=
  .next (s.cycle p (.getWindow p))

/-- SET_WINDOW (R67, R68). -/
def execSetWindow (p : Port) (s : State) : Host.Outcome State Fault Refusal :=
  .next (s.cycle p (.setWindow p))

/-- SET_DEFAULT_RIGHTS (R70). -/
def execSetDefaultRights (p : Port) (s : State) : Host.Outcome State Fault Refusal :=
  .next (s.cycle p (.setDefaultRights p))

/-! ### Copies -/

/-- COPY (R103, R104). -/
def execCopy (p : Port) (s : State) : Host.Outcome State Fault Refusal :=
  .next (s.cycle p (.copy p))

/-- FILL (R103, R104). -/
def execFill (p : Port) (s : State) : Host.Outcome State Fault Refusal :=
  .next (s.cycle p (.fill p))

/-- CANCEL_COPY (R114 to R116). -/
def execCancelCopy (p : Port) (s : State) : Host.Outcome State Fault Refusal :=
  .next (s.cycle p (.cancelCopy p))

/-- TAKE_COMPLETION (R113). -/
def execTakeCompletion (p : Port) (s : State) : Host.Outcome State Fault Refusal :=
  .next (s.cycle p (.takeCompletion p))

/-- PAUSE_COPY (R117). -/
def execPauseCopy (p : Port) (s : State) : Host.Outcome State Fault Refusal :=
  .next (s.cycle p (.pauseCopy p))

/-- RESUME_COPY (R118). -/
def execResumeCopy (p : Port) (s : State) : Host.Outcome State Fault Refusal :=
  .next (s.cycle p (.resumeCopy p))

/-! ### Messages -/

/-- SEND (R128 to R131). -/
def execSend (p : Port) (s : State) : Host.Outcome State Fault Refusal :=
  .next (s.cycle p (.send p))

/-- RECEIVE (R133). -/
def execReceive (p : Port) (s : State) : Host.Outcome State Fault Refusal :=
  .next (s.cycle p (.receive p))

/-- MSG_STATUS (R135). -/
def execMsgStatus (p : Port) (s : State) : Host.Outcome State Fault Refusal :=
  .next (s.cycle p (.msgStatus p))

/-- SET_QUOTA (R136). -/
def execSetQuota (p : Port) (s : State) : Host.Outcome State Fault Refusal :=
  .next (s.cycle p (.setQuota p))

/-! ### Events and status -/

/-- TAKE_LOCK_EVENTS (R166). -/
def execTakeLockEvents (p : Port) (s : State) : Host.Outcome State Fault Refusal :=
  .next (s.cycle p (.takeLockEvents p))

/-- TAKE_PEER_EVENTS (R168). -/
def execTakePeerEvents (p : Port) (s : State) : Host.Outcome State Fault Refusal :=
  .next (s.cycle p (.takePeerEvents p))

/-- TAKE_FAULT (R88). -/
def execTakeFault (p : Port) (s : State) : Host.Outcome State Fault Refusal :=
  .next (s.cycle p (.takeFault p))

/-- POOL_STATUS (R177). -/
def execPoolStatus (p : Port) (s : State) : Host.Outcome State Fault Refusal :=
  .next (s.cycle p (.poolStatus p))

/-! ### The command interface -/

/-- BAD_COMMAND: the command interface answers an unassigned code itself, whatever the session state, with the low eight bits
of the word in the command-code field (R173 step 1, R174). A word that is an assigned code is another row's write, and the
term is ill formed. -/
def execBadCommand (p : Port) (w : Word) (s : State) : Host.Outcome State Fault Refusal :=
  if assignedCode w then .refused (.codeAssigned w) else .next (s.cycle p (.badCommand p w))

/-! ### The aperture -/

/-- ADATA_READ (R81, R92). -/
def execAdataRead (p : Port) (s : State) : Host.Outcome State Fault Refusal :=
  .next (s.cycle p (.adataRead p))

/-- ADATA_WRITE (R81, R92). -/
def execAdataWrite (p : Port) (w : Word) (s : State) : Host.Outcome State Fault Refusal :=
  .next (s.cycle p (.adataWrite p w))

/-- AMODE_WRITE (R80). -/
def execAmodeWrite (p : Port) (w : Word) (s : State) : Host.Outcome State Fault Refusal :=
  .next (s.cycle p (.amodeWrite p w))

/-! ### Register writes -/

/-- EVEN_SET (R163). -/
def execEvenSet (p : Port) (w : Word) (s : State) : Host.Outcome State Fault Refusal :=
  .next (s.cycle p (.evenSet p w))

/-- EVEN_CLR (R163). -/
def execEvenClr (p : Port) (w : Word) (s : State) : Host.Outcome State Fault Refusal :=
  .next (s.cycle p (.evenClr p w))

/-- REGISTER_WRITE (R178). -/
def execRegisterWrite (p : Port) (r : PlainWord) (w : Word) (s : State) : Host.Outcome State Fault Refusal :=
  .next (s.cycle p (.registerWrite p r w))

end Sys2Proof.Machine
end

