-- ==== Sys2Proof/Machine/Dispatch.lean ====
section
/-! DEFINITION. Which meaning each command has, one arm per row of the opcode table. -/

namespace Sys2Proof.Machine

def exec (i : Instr) (s : State) : Host.Outcome State Fault Refusal :=
  match i with
    | .attach p => Sys2Proof.Machine.execAttach p s
    | .detach p => Sys2Proof.Machine.execDetach p s
    | .evict p => Sys2Proof.Machine.execEvict p s
    | .acquire p => Sys2Proof.Machine.execAcquire p s
    | .release p => Sys2Proof.Machine.execRelease p s
    | .renew p => Sys2Proof.Machine.execRenew p s
    | .withdraw p => Sys2Proof.Machine.execWithdraw p s
    | .lockStatus p => Sys2Proof.Machine.execLockStatus p s
    | .setLock p => Sys2Proof.Machine.execSetLock p s
    | .breakLock p => Sys2Proof.Machine.execBreakLock p s
    | .setTick p => Sys2Proof.Machine.execSetTick p s
    | .probe p => Sys2Proof.Machine.execProbe p s
    | .getWindow p => Sys2Proof.Machine.execGetWindow p s
    | .setWindow p => Sys2Proof.Machine.execSetWindow p s
    | .setDefaultRights p => Sys2Proof.Machine.execSetDefaultRights p s
    | .copy p => Sys2Proof.Machine.execCopy p s
    | .fill p => Sys2Proof.Machine.execFill p s
    | .cancelCopy p => Sys2Proof.Machine.execCancelCopy p s
    | .takeCompletion p => Sys2Proof.Machine.execTakeCompletion p s
    | .pauseCopy p => Sys2Proof.Machine.execPauseCopy p s
    | .resumeCopy p => Sys2Proof.Machine.execResumeCopy p s
    | .send p => Sys2Proof.Machine.execSend p s
    | .receive p => Sys2Proof.Machine.execReceive p s
    | .msgStatus p => Sys2Proof.Machine.execMsgStatus p s
    | .setQuota p => Sys2Proof.Machine.execSetQuota p s
    | .takeLockEvents p => Sys2Proof.Machine.execTakeLockEvents p s
    | .takePeerEvents p => Sys2Proof.Machine.execTakePeerEvents p s
    | .takeFault p => Sys2Proof.Machine.execTakeFault p s
    | .poolStatus p => Sys2Proof.Machine.execPoolStatus p s
    | .badCommand p w => Sys2Proof.Machine.execBadCommand p w s
    | .adataRead p => Sys2Proof.Machine.execAdataRead p s
    | .adataWrite p w => Sys2Proof.Machine.execAdataWrite p w s
    | .apertureAccess => Sys2Proof.Machine.execApertureAccess s
    | .copyWordMove => Sys2Proof.Machine.execCopyWordMove s
    | .amodeWrite p w => Sys2Proof.Machine.execAmodeWrite p w s
    | .evenSet p w => Sys2Proof.Machine.execEvenSet p w s
    | .evenClr p w => Sys2Proof.Machine.execEvenClr p w s
    | .registerWrite p r w => Sys2Proof.Machine.execRegisterWrite p r w s
    | .leaseTick => Sys2Proof.Machine.execLeaseTick s
    | .waitExpiry l p => Sys2Proof.Machine.execWaitExpiry l p s
    | .leaseExpiry l => Sys2Proof.Machine.execLeaseExpiry l s
    | .resetnAsserted => Sys2Proof.Machine.execResetnAsserted s
    | .resetnNegated csel => Sys2Proof.Machine.execResetnNegated csel s
    | .prstnAsserted p => Sys2Proof.Machine.execPrstnAsserted p s
    | .prstnNegated p => Sys2Proof.Machine.execPrstnNegated p s
    | .cycleEndedEarly p => Sys2Proof.Machine.execCycleEndedEarly p s

end Sys2Proof.Machine
end

