-- ==== Sys2Proof/Machine/Step.lean ====
section
/-! DEFINITION. One step of the part: the command at the front of the queue, or, on an empty queue, what a bus does next or one CLK
period. -/

namespace Sys2Proof.Machine

/-- A step on an empty queue (log entries 4 and 7): the lowest bus that can answer a cycle does what is next for it (R171,
R176, R177), and otherwise one period of CLK passes (R31). -/
def State.idleStep (s : State) : Host.Outcome State Fault Refusal :=
  match s.readyCycle with
  | some p => .next (s.busStep p)
  | none => .next s.clkPeriod

/-- One step: the command at the front of the queue is taken whole by its block, with the rest of the queue behind it. -/
def step (s : State) : Host.Outcome State Fault Refusal :=
  match s.pending with
  | c :: rest => exec c { s with pending := rest }
  | [] => s.idleStep

/-- The state with the command a word spells put at the front of its queue; the table gives no row bits, so no word spells
one. -/
def State.withFetchWord (s : State) (nbits w : Nat) : State :=
  match decodeTableWord nbits w with
  | some c => { s with pending := c :: s.pending }
  | none => s

end Sys2Proof.Machine
end

