-- ==== Sys2Proof/WellFormed.lean ====
section
/-! DEFINITION. Which commands are well formed. Every operand but one can only be built well formed (a port, a lock, a plain
word); the word of BAD_COMMAND must be an unassigned code (R173). -/

namespace Sys2Proof

/-- A command is well formed: a BAD_COMMAND writes a word that is no code of Table 9-1 (R173 step 1). -/
def Instr.wellFormed : Instr → Bool
  | .attach _ => true
  | .detach _ => true
  | .evict _ => true
  | .acquire _ => true
  | .release _ => true
  | .renew _ => true
  | .withdraw _ => true
  | .lockStatus _ => true
  | .setLock _ => true
  | .breakLock _ => true
  | .setTick _ => true
  | .probe _ => true
  | .getWindow _ => true
  | .setWindow _ => true
  | .setDefaultRights _ => true
  | .copy _ => true
  | .fill _ => true
  | .cancelCopy _ => true
  | .takeCompletion _ => true
  | .pauseCopy _ => true
  | .resumeCopy _ => true
  | .send _ => true
  | .receive _ => true
  | .msgStatus _ => true
  | .setQuota _ => true
  | .takeLockEvents _ => true
  | .takePeerEvents _ => true
  | .takeFault _ => true
  | .poolStatus _ => true
  | .badCommand _ w => !assignedCode w
  | .adataRead _ => true
  | .adataWrite _ _ => true
  | .apertureAccess => true
  | .copyWordMove => true
  | .amodeWrite _ _ => true
  | .evenSet _ _ => true
  | .evenClr _ _ => true
  | .registerWrite _ _ _ => true
  | .leaseTick => true
  | .waitExpiry _ _ => true
  | .leaseExpiry _ => true
  | .resetnAsserted => true
  | .resetnNegated _ => true
  | .prstnAsserted _ => true
  | .prstnNegated _ => true
  | .cycleEndedEarly _ => true

end Sys2Proof
end

