-- ==== Sys2Proof/Safety.lean ====
section
/-! DEFINITION. The laws the manual says every state keeps, in the terms the statements use, and what it means for a step to keep a
law. -/

namespace Sys2Proof.Machine

/-! ### The lock table -/

/-- R2: no holder exactly when FREE; one holder when EXCLUSIVE; a disabled lock is FREE with an empty queue. -/
abbrev LockRec.ModeLaw (r : LockRec) : Prop :=
  (r.mode = .free ↔ r.holders = 0) ∧ (r.mode = .exclusive → ∃ p, r.holders = PortSet.ofList [p])
    ∧ (r.enabled = false → r.mode = .free ∧ r.queue = [])

/-- R4, second law: a waiter queue that is not empty has a held lock, and its head and the holders are not both SHARED. -/
def LockRec.headLaw (r : LockRec) : Bool :=
  match r.queue with
  | [] => true
  | e :: _ => r.mode != .free && !(r.mode == .shared && e.mode == .shared)

/-- R4: no port twice in a queue, none in the queue of a lock it holds, and the law on the head. -/
abbrev LockRec.QueueLaw (r : LockRec) : Prop :=
  (r.queue.map Waiter.port).Nodup ∧ (∀ e ∈ r.queue, r.heldBy e.port = false) ∧ r.headLaw = true

/-- R3: a wait remaining is absent or 1 to 1023. -/
def Waiter.waitLaw (e : Waiter) : Bool :=
  match e.wait with
  | none => true
  | some n => decide (1 ≤ n) && decide (n ≤ Config.mostTicks)

/-- R10: a held lock with a non-zero lease length has 1 to lease length left; a free or unleased lock has no lease running. -/
def LockRec.leaseLaw (r : LockRec) : Bool :=
  decide (r.leaseLength ≤ Config.mostTicks) &&
  match r.leaseLeft with
  | none => r.mode == .free || r.leaseLength == 0
  | some n => r.mode != .free && decide (1 ≤ n) && decide (n ≤ r.leaseLength)

/-- The laws of one lock record (R2, R3, R4, R10). -/
abbrev LockRec.Lawful (r : LockRec) : Prop :=
  r.ModeLaw ∧ r.QueueLaw ∧ r.leaseLaw = true ∧ ∀ e ∈ r.queue, e.waitLaw = true

/-- The waiter entries in all queues (R5). -/
def State.entriesInUse (s : State) : Nat := ((List.finRange 32).map fun l => (s.lock l).queue.length).sum

/-- The lock table's laws: every record is lawful. -/
abbrev State.LocksLawful (s : State) : Prop := ∀ l, (s.lock l).Lawful

/-- R5: the entries in all queues number at most 32. -/
abbrev State.PoolLaw (s : State) : Prop := s.entriesInUse ≤ Config.waiterEntries

/-! ### The window unit and the memory -/

/-- Table 3-1: k is 4 to 15 and both bases are multiples of 2^k. -/
abbrev Window.Lawful (w : Window) : Prop :=
  4 ≤ w.size ∧ w.size ≤ 15 ∧ w.viewBase.toNat % 2 ^ w.size = 0 ∧ w.targetBase.toNat % 2 ^ w.size = 0

/-- Every window record is lawful (R56). -/
abbrev State.WindowsLawful (s : State) : Prop := ∀ i, (s.window i).Lawful

/-- The memory is in its canonical form. -/
abbrev State.MemLaw (s : State) : Prop := s.mem.wf = true

/-! ### The copy engine -/

/-- Table 5-1: length 1 to 4096, fewer words moved than the length while the descriptor stands in the queue, and none moved
while it is QUEUED. -/
abbrev Descriptor.Lawful (d : Descriptor) : Prop :=
  1 ≤ d.length ∧ d.length ≤ Config.longestCopy ∧ d.moved < d.length ∧ (d.state = .queued → d.moved = 0)

/-- R98, R101: IDLE has an empty queue; RUNNING has an ACTIVE head; every descriptor behind the head is QUEUED. -/
def Engine.queueLaw (e : Engine) : Bool :=
  match e.mode, e.queue with
  | .idle, q => q.isEmpty
  | .running, [] => false
  | .running, d :: ds => d.state == .active && ds.all fun x => x.state == .queued
  | .paused, [] => true
  | .paused, _ :: ds => ds.all fun x => x.state == .queued

/-- The copy engine's laws: at most 8 descriptors, each lawful (R97, R98), the queue as its state says (R101), and a request at
the arbiter exactly while RUNNING (R105). -/
abbrev Engine.Lawful (e : Engine) : Prop :=
  e.queue.length ≤ Config.copySlots ∧ (∀ d ∈ e.queue, d.Lawful) ∧ e.queueLaw = true ∧ e.requesting = (e.mode == .running)

/-- R100: no port has more than four descriptors and uncollected records together. -/
abbrev State.CopyCountLaw (s : State) : Prop := ∀ p, s.copyCount p ≤ Config.copiesPerPort

/-- The copy engine's laws in a state. -/
abbrev State.CopiesLawful (s : State) : Prop := s.engine.Lawful ∧ s.CopyCountLaw

/-! ### The message unit -/

/-- The messages in all receive queues (R125). -/
def State.slotsInUse (s : State) : Nat := ((List.finRange 4).map fun p => (s.port p).inbox.length).sum

/-- R125, R126: no queue is longer than its quota, no quota is above 32, the messages number at most 32, and a message has at
most 7 payload words. -/
abbrev State.MessagesLawful (s : State) : Prop :=
  (∀ p, (s.port p).inbox.length ≤ (s.port p).quota ∧ (s.port p).quota ≤ Config.largestQuota)
    ∧ s.slotsInUse ≤ Config.messageSlots
    ∧ ∀ p, ∀ m ∈ (s.port p).inbox, m.payload.length ≤ 7

/-! ### Sessions -/

/-- What a port that is not ATTACHED has of its own record: nothing (R153, R161). -/
abbrev PortState.Bare (r : PortState) : Prop :=
  r.granted = 0 ∧ r.revoked = 0 ∧ r.waitEnd = 0 ∧ r.peerUp = 0 ∧ r.peerDown = 0 ∧ r.enables = 0 ∧ r.fault = none
    ∧ r.inbox = [] ∧ r.completions = []

/-- A port that is not ATTACHED holds no lock, has no waiter entry, no copy descriptor, no message, no completion record, empty
event sets, an empty fault record and clear enables (R153). -/
abbrev State.AbsentBare (s : State) : Prop :=
  ∀ p, s.attached p = false →
    (s.port p).Bare
      ∧ (∀ l, (s.lock l).heldBy p = false ∧ ∀ e ∈ (s.lock l).queue, e.port ≠ p)
      ∧ ∀ d ∈ s.engine.queue, d.requester ≠ p

/-- R141, R144: a port is DOWN exactly while RESETn or its PRSTn is asserted, and a control port is named exactly while RESETn
is negated. -/
abbrev State.ResetLaw (s : State) : Prop :=
  (∀ p, (s.port p).mode = .down ↔ s.resetAsserted = true ∨ (s.port p).prstAsserted = true)
    ∧ (s.control = none ↔ s.resetAsserted = true)

/-- R147, R124: an ATTACHED port's session number is not 0, nor is the source session number of any message. -/
abbrev State.SessionLaw (s : State) : Prop :=
  (∀ p, s.attached p = true → (s.port p).session ≠ 0) ∧ ∀ p, ∀ m ∈ (s.port p).inbox, m.session ≠ 0

/-- R160: no port's own bit stands in its peer sets. -/
abbrev State.PeerLaw (s : State) : Prop :=
  ∀ p, (s.port p).peerUp.has p = false ∧ (s.port p).peerDown.has p = false

/-- The bus of a port: a DOWN port has no unanswered cycle (R145), a port without one has no early end recorded, one cycle at a
time is stretched, an access or a command, cycles are held behind a stretched one only (R176), and every held cycle is a
well-formed cycle of the port. -/
abbrev State.BusLaw (s : State) : Prop :=
  ∀ p, ((s.port p).mode = .down → (s.port p).busy = false)
    ∧ ((s.port p).busy = false → (s.port p).cycleEnded = false)
    ∧ ((s.port p).request = none ∨ (s.port p).command = none)
    ∧ ((s.port p).held ≠ [] → (s.port p).stretched = true)
    ∧ ∀ c ∈ (s.port p).held, c.wellFormed = true ∧ c.port? = some p

/-- R31: the running count is below the tick period, and 0 while RESETn is asserted. -/
abbrev State.TimerLaw (s : State) : Prop :=
  s.count < s.tickPeriod ∧ (s.resetAsserted = true → s.count = 0)

/-! ### Steps -/

/-- Every step from a state with the law leads to a state with the law. -/
def KeptByStep (law : State → Prop) : Prop :=
  ∀ s t : State, law s → step s = .next t → law t

/-! ### Frames -/

/-- Everything but the ports' records and the locks is as before. -/
abbrev State.SameChip (s t : State) : Prop :=
  t.resetAsserted = s.resetAsserted ∧ t.control = s.control ∧ t.divider = s.divider ∧ t.count = s.count
    ∧ (∀ i, t.window i = s.window i) ∧ t.defaultRights = s.defaultRights ∧ t.mem = s.mem ∧ t.position = s.position
    ∧ t.engine = s.engine ∧ t.pending = s.pending

/-- Every lock but `l` is as before. -/
abbrev State.SameOtherLocks (s t : State) (l : LockNo) : Prop := ∀ k, k ≠ l → t.lock k = s.lock k

/-- Every port's record but that of `p` is as before. -/
abbrev State.SameOtherPorts (s t : State) (p : Port) : Prop := ∀ q, q ≠ p → t.port q = s.port q

/-- A port's record with a result posted: STATUS and all ten RES words are written, and the CMD cycle is stretched until it is
answered; nothing else (R171, R174). -/
abbrev PortState.posted (r : PortState) (code : Byte) (res : Result) (words : List Word) : PortState :=
  { r with
    status := statusWord res code
    res := Vector.ofFn fun i => words.getD i.val 0
    command := some .posted }

/-- A port's record but for its GRANTED, REVOKED and WAITEND sets. -/
abbrev PortState.noLockBits (r : PortState) : PortState := { r with granted := 0, revoked := 0, waitEnd := 0 }

/-- A port's GRANTED, REVOKED and WAITEND sets are as before, but that the bits for lock `l` in the given port sets were added
if the port is ATTACHED (R29, R159). -/
abbrev State.LockBitsAdded (s t : State) (l : LockNo) (granted revoked waitEnd : PortSet) : Prop :=
  ∀ q k, (t.port q).granted.has k = ((s.port q).granted.has k || (s.attached q && (k == l && granted.has q)))
    ∧ (t.port q).revoked.has k = ((s.port q).revoked.has k || (s.attached q && (k == l && revoked.has q)))
    ∧ (t.port q).waitEnd.has k = ((s.port q).waitEnd.has k || (s.attached q && (k == l && waitEnd.has q)))

/-- What a session end of port `p` leaves, at every block (R153, Table 7-2). The port's own record is bare, in the given state, with
its session number, quota and serial counter kept. Each lock has lost the port's entry and hold and is re-evaluated (R27, R28).
The port's descriptors are gone, the others keep their order, and the engine takes its step (R121). Every other port's record
is as before but for its GRANTED bits from the re-evaluations, its PEER_DOWN bit for `p` if it is ATTACHED (R154), and the words
and the stretched cycle of a posted result. Nothing else of the part changes. -/
abbrev State.SessionEnded (s t : State) (p : Port) (m : PortMode) : Prop :=
  (t.port p).mode = m ∧ (t.port p).Bare ∧ (t.port p).session = (s.port p).session
    ∧ (t.port p).quota = (s.port p).quota ∧ (t.port p).serial = (s.port p).serial
    ∧ (∀ l, (t.lock l).heldBy p = false ∧ (t.lock l).queuedBy p = false
        ∧ ∃ e d : LockRec, e = { s.lock l with queue := (s.lock l).queue.filter fun x => x.port != p }
          ∧ d = (if (s.lock l).heldBy p = true then
                (if (s.lock l).holders.erase p = 0 then { e with holders := 0, mode := .free, leaseLeft := none }
                  else { e with holders := (s.lock l).holders.erase p })
              else e)
          ∧ ((s.lock l).heldBy p = false → (s.lock l).queuedBy p = false → t.lock l = s.lock l)
          ∧ ((s.lock l).heldBy p = true ∨ (s.lock l).queuedBy p = true → t.lock l = d.reevaluate.record)
          ∧ ∀ q, q ≠ p → (t.port q).granted.has l = ((s.port q).granted.has l
              || (s.attached q && (((s.lock l).heldBy p || (s.lock l).queuedBy p) && d.reevaluate.granted.has q))))
    ∧ t.engine = ({ s.engine with queue := s.engine.queue.filter fun d => d.requester != p } : Engine).settle
    ∧ (∀ q, q ≠ p →
        (t.port q).peerDown = (if s.attached q then (s.port q).peerDown.insert p else (s.port q).peerDown)
        ∧ ({ t.port q with granted := 0, peerDown := 0, status := 0, res := (s.port q).res, command := none } : PortState)
            = { s.port q with granted := 0, peerDown := 0, status := 0, command := none })
    ∧ t.mem = s.mem ∧ (∀ i, t.window i = s.window i) ∧ t.defaultRights = s.defaultRights
    ∧ t.divider = s.divider ∧ t.count = s.count ∧ t.position = s.position ∧ t.control = s.control
    ∧ t.resetAsserted = s.resetAsserted ∧ t.pending = s.pending

/-- A bus cycle of port `p` can be taken: the port's bus responds (R141) and no earlier cycle is unanswered (R180). -/
abbrev State.Ready (s : State) (p : Port) : Prop := (s.port p).mode ≠ .down ∧ (s.port p).busy = false

/-- A command of port `p` passes step 2 of R173: its cycle can be taken and the port is ATTACHED. -/
abbrev State.CanCommand (s : State) (p : Port) : Prop := s.attached p = true ∧ (s.port p).busy = false

end Sys2Proof.Machine
end

