-- ==== Sys2Proof/Certificates/Slice0/Obligations.lean ====
section
/-! DEFINITION. The statements about the WC-432 for the provers. Each docstring names the rules of spec/ it formalises. -/

open Sys2Proof Sys2Proof.Machine

/-! ### Steps, codes, reset -/

/-- A step takes the command at the front of the queue: it is `exec` of it on the state with the queue's rest (the task's form
of a block's step; 00_scope 3.3). -/
def Obligations.StepRunsTheFrontCommand : Prop :=
  ∀ (s : State) (c : Instr) (rest : List Instr), s.pending = c :: rest → step s = exec c { s with pending := rest }

/-- R31: on an empty queue with no bus that can answer a cycle, one CLK period passes (the model's choice, log entry 7): in chip
reset the count stays; otherwise it advances by one, and when it reaches (D + 1) × 256 the whole lease tick is taken: the count
starts again from 0, every lock takes the tick, and the state is the one the event LEASE_TICK leads to. -/
def Obligations.IdleStepIsOneClockPeriod : Prop :=
  ∀ s : State, s.pending = [] → s.readyCycle = none →
    ∃ t, step s = .next t
      ∧ (s.resetAsserted = true → t = s)
      ∧ (s.resetAsserted = false → s.count + 1 < (s.divider.toNat + 1) * 256 → t = { s with count := s.count + 1 })
      ∧ (s.resetAsserted = false → (s.divider.toNat + 1) * 256 ≤ s.count + 1 →
          t.count = 0 ∧ t.divider = s.divider ∧ (∀ l, t.lock l = (s.lock l).tick.record) ∧ exec .leaseTick s = .next t)

/-- No well-formed command stops the part: `exec` answers a next state (R174: a refused command posts a result; R85: a refused
access is answered). A step from a state whose buses are lawful, with a well-formed command at the front of the queue or an
empty queue, answers a next state. -/
def Obligations.WellFormedCommandsNeverStop : Prop :=
  (∀ (i : Instr) (s : State), i.wellFormed = true → ∃ t, exec i s = .next t)
    ∧ ∀ s : State, s.BusLaw → (∀ c, s.pending.head? = some c → c.wellFormed = true) → ∃ t, step s = .next t

/-- Table 9-1: a write of a command's code to CMD is read as that command, for every command and port. -/
def Obligations.CommandCodesRoundTrip : Prop :=
  ∀ (i : Instr) (p : Port) (c : Byte), i.code? = some c → i.port? = some p → decodeCmd p (c.setWidth 16) = i

/-- R143 with R30, R31, R75, R76, R96, R123, R140, R170 and R179: RESETn asserted puts every block into its reset state from any
state, and keeps the shared memory. That the levels of the PRSTn inputs stay as they are (log entry 3, DESIGN CHOICE), and that
the record of the last ADATA answer becomes none (log entry 13, DESIGN CHOICE), is the model's choice. -/
def Obligations.ChipResetSetsEveryBlock : Prop :=
  ∀ s : State, ∃ t, exec .resetnAsserted s = .next t
    ∧ t.resetAsserted = true ∧ t.control = none ∧ t.divider = 63 ∧ t.count = 0
    ∧ (∀ l, t.lock l =
        { enabled := true, mode := .free, holders := 0, leaseLength := 0, leaseLeft := none, queue := [] })
    ∧ (∀ i, t.window i =
        { enabled := false, size := 4, viewBase := 0, targetBase := 0, rights := 0, guard := none, guardReads := false })
    ∧ t.defaultRights = 0xFF
    ∧ t.position = .port 0 ∧ t.engine = { queue := [], mode := .idle, requesting := false }
    ∧ (∀ p, t.port p =
        { mode := .down, session := 0, prstAsserted := (s.port p).prstAsserted, status := 0,
          args := Vector.replicate 8 0, res := Vector.replicate 10 0, aaddr := 0, amode := .hold, fault := none,
          request := none, command := none, cycleEnded := false, held := [], answer := .none, granted := 0, revoked := 0,
          waitEnd := 0, peerUp := 0, peerDown := 0, enables := 0, quota := 8, inbox := [], serial := 0, completions := [] })
    ∧ t.freeEntries = 32 ∧ t.freeSlots = 32 ∧ t.mem = s.mem ∧ t.pending = s.pending

/-- R143, R144: at the negation of RESETn the straps name the control port, each port whose PRSTn is negated becomes DETACHED and
the others stay as they are, and nothing else changes. That the event changes nothing where RESETn is not asserted, since there
is then no negation, is read from the spec by inference (log entry 11, DEDUCED). -/
def Obligations.ChipResetEndSamplesStraps : Prop :=
  ∀ (s : State) (csel : Port), ∃ t, exec (.resetnNegated csel) s = .next t
    ∧ (s.resetAsserted = false → t = s)
    ∧ (s.resetAsserted = true →
        t.resetAsserted = false ∧ (∀ p, t.isControl p = (p == csel))
          ∧ (∀ p, t.port p = if (s.port p).prstAsserted then s.port p else { s.port p with mode := .detached })
          ∧ (∀ l, t.lock l = s.lock l) ∧ (∀ i, t.window i = s.window i) ∧ t.defaultRights = s.defaultRights
          ∧ t.mem = s.mem ∧ t.divider = s.divider ∧ t.count = s.count ∧ t.position = s.position
          ∧ t.engine = s.engine ∧ t.pending = s.pending)

/-- The reset state meets every law the statements below say each step keeps. -/
def Obligations.ResetIsLawful : Prop :=
  State.reset.LocksLawful ∧ State.reset.PoolLaw ∧ State.reset.WindowsLawful ∧ State.reset.MemLaw
    ∧ State.reset.CopiesLawful ∧ State.reset.MessagesLawful ∧ State.reset.AbsentBare ∧ State.reset.ResetLaw
    ∧ State.reset.SessionLaw ∧ State.reset.PeerLaw ∧ State.reset.BusLaw ∧ State.reset.TimerLaw

/-! ### Laws every step keeps -/

/-- R2, R3, R4, R10: every step keeps the laws of the lock records: no holder exactly when FREE, one when EXCLUSIVE; a disabled
lock FREE with an empty queue; no port twice in a queue nor in the queue of a lock it holds; a queue that is not empty has a
held lock, holders and head not both SHARED; a held leased lock has 1 to its lease length left, a free or unleased one no
lease; a wait is absent or 1 to 1023. -/
def Obligations.StepKeepsLockLaws : Prop := KeptByStep State.LocksLawful

/-- R5, R125, R126: every step keeps the waiter entries within the pool of 32, the receive queues within their quotas, and the
messages within the 32 slots. -/
def Obligations.StepKeepsPools : Prop := KeptByStep State.PoolLaw ∧ KeptByStep State.MessagesLawful

/-- R56, R52: every step keeps each window's size code and bases lawful, so that no window maps outside the memory, and keeps
the canonical form of the memory, whose addresses all lie below 8000H. -/
def Obligations.StepKeepsWindowAndMemoryLaws : Prop := KeptByStep State.WindowsLawful ∧ KeptByStep State.MemLaw

/-- R97, R98, R100, R101, R105: every step keeps the copy engine's laws: at most 8 descriptors, each of length 1 to 4096 with
fewer words moved, none moved while QUEUED; an empty queue when IDLE, an ACTIVE head when RUNNING, every later descriptor
QUEUED; a request at the arbiter exactly while RUNNING; at most four descriptors and records of one port. -/
def Obligations.StepKeepsCopyLaws : Prop := KeptByStep State.CopiesLawful

/-- R153, with R141, R144 and R145: every step keeps, in states whose buses are lawful (a law every step keeps, by
StepKeepsTimerAndBusLaws), a port DOWN exactly while a reset of it is asserted and the control port named exactly while RESETn is
negated; and keeps with these laws a port that is not ATTACHED without a lock, a waiter entry, a descriptor, a message, a record,
an event bit or an enable. -/
def Obligations.StepKeepsAbsentPortsBare : Prop :=
  (KeptByStep fun s => s.BusLaw ∧ s.ResetLaw) ∧ KeptByStep fun s => s.BusLaw ∧ s.ResetLaw ∧ s.AbsentBare

/-- R147, R124, R160: every step keeps the session numbers of ATTACHED ports and of messages not 0, and no port in its own peer
sets. -/
def Obligations.StepKeepsSessionLaws : Prop := KeptByStep State.SessionLaw ∧ KeptByStep State.PeerLaw

/-- R31, R145, R176: every step keeps the running count below the tick period, DOWN ports without an unanswered cycle, at most one
cycle of a port stretched, cycles held behind a stretched one only, and the held cycles well formed and the port's own. -/
def Obligations.StepKeepsTimerAndBusLaws : Prop := KeptByStep State.TimerLaw ∧ KeptByStep State.BusLaw

/-- R62: a step changes a word of shared memory only where a check of R61, made in that state, permits a write at a view address
that maps to the word: for the waiting write of an ATTACHED port, or for the next word of the copy engine's head descriptor
under its requester's name. -/
def Obligations.MemoryChangesOnlyByPermittedWrites : Prop :=
  ∀ (s t : State) (a : Nat), s.MemLaw → step s = .next t → t.mem.read a ≠ s.mem.read a →
    ∃ (p : Port) (v : Word) (b : MemAddr), b.toNat = a ∧ s.check p v .write = .permitted b
      ∧ ((∃ q w, (s.port p).request = some q ∧ q.view = v ∧ q.kind = .write w ∧ s.attached p = true)
          ∨ ∃ d rest, s.engine.queue = d :: rest ∧ d.requester = p ∧ v = d.dest + BitVec.ofNat 16 d.moved)

/-! ### What every command meets first -/

/-- R141, R173 steps 2 and 3: a cycle of a DOWN port has no effect, whatever the command; a command other than ATTACH from a
DETACHED port posts NOT_ATTACHED, and a reserved command of an ATTACHED port without the control flag posts NOT_PERMITTED;
nothing else changes. -/
def Obligations.CommandsNeedASessionAndPermission : Prop :=
  ∀ (i : Instr) (p : Port) (s : State), i.port? = some p →
    (i.wellFormed = true → (s.port p).mode = .down → exec i s = .next s)
      ∧ ∀ c : Byte, i.code? = some c → (s.port p).busy = false →
        ((s.port p).mode = .detached → c ≠ 0x01 → exec i s = .next (s.post p c .notAttached []))
        ∧ ((s.port p).mode = .attached → reservedCode c = true → s.isControl p = false →
            exec i s = .next (s.post p c .notPermitted []))

/-- R174: a refused command changes no state at any block: where the command has then ended, and STATUS carries a result code
other than OK, GRANTED and QUEUED, the next state is the old one with that result posted and all ten RES words 0000H. -/
def Obligations.RefusedCommandsOnlyPost : Prop :=
  ∀ (i : Instr) (p : Port) (c : Byte) (s t : State), i.port? = some p → i.code? = some c → s.Ready p →
    exec i s = .next t → (t.port p).command = some .posted → 3 ≤ ((t.port p).status.extractLsb' 8 8).toNat →
    ∃ r : Result, t = s.post p c r []

/-- R173 step 1, R174: a word written to CMD is read as BAD_COMMAND exactly when no command has it as its code, as 0000H and
every word above 00FFH are; from a DETACHED or ATTACHED port such a write posts BAD_COMMAND with the low eight bits of the word
and changes nothing else. An assigned code makes no BAD_COMMAND term, and that exec answers such a term with the refusal
codeAssigned is the model's own (log entry 11, DEDUCED). -/
def Obligations.BadCommandPosts : Prop :=
  ∀ (p : Port) (w : Word),
    (decodeCmd p w = .badCommand p w ↔ ∀ (i : Instr) (c : Byte), i.code? = some c → c.setWidth 16 ≠ w)
      ∧ ((w = 0 ∨ 0x00FF < w.toNat) → decodeCmd p w = .badCommand p w)
      ∧ (∀ s : State, s.Ready p → decodeCmd p w = .badCommand p w →
          exec (.badCommand p w) s = .next (s.post p (w.setWidth 8) .badCommand []))
      ∧ ∀ s : State, assignedCode w = true → exec (.badCommand p w) s = .refused (.codeAssigned w)

/-! ### The lock table -/

/-- R9, R10: an ACQUIRE of an enabled lock that the port neither holds nor waits for, with the lock FREE or joined SHARED on an
empty queue, is granted at once: the port joins the holders, the mode follows the request, the lease is loaded from FREE and
kept on a join, RES0 shows it, and no event bit is set. -/
def Obligations.AcquireGrantsAtOnce : Prop :=
  ∀ (s : State) (p : Port) (l : LockNo) (m : ReqMode), s.CanCommand p →
    (s.arg p 0).toNat = l.val → s.arg p 1 = m.code.setWidth 16 → (s.arg p 2 = 0 ∨ s.arg p 2 = 1) →
    (s.arg p 3).toNat ≤ 1023 → (s.lock l).enabled = true → (s.lock l).heldBy p = false → (s.lock l).queuedBy p = false →
    ((s.lock l).mode = .free ∨ ((s.lock l).mode = .shared ∧ m = .shared ∧ (s.lock l).queue = [])) →
    ∃ t, exec (.acquire p) s = .next t
      ∧ t.lock l = { s.lock l with
          mode := (match m with
            | .shared => .shared
            | .exclusive => .exclusive)
          holders := (s.lock l).holders.insert p
          leaseLeft := if (s.lock l).mode = .free then
              (if (s.lock l).leaseLength = 0 then none else some (s.lock l).leaseLength)
            else (s.lock l).leaseLeft }
      ∧ t.port p = (s.port p).posted 0x10 .granted [ticksWord (t.lock l).leaseLeft]
      ∧ s.SameOtherPorts t p ∧ s.SameOtherLocks t l ∧ s.SameChip t

/-- R11: an ACQUIRE that passes R7 and R8 and is not grantable now posts BUSY without the wait flag, NO_ENTRY with it when the
pool is empty, and is otherwise queued at the tail with its position in RES0; only then does the lock change, and no bit is
set. -/
def Obligations.AcquireWaitsOrIsRefused : Prop :=
  ∀ (s : State) (p : Port) (l : LockNo) (m : ReqMode), s.CanCommand p → (s.lock l).Lawful →
    (s.arg p 0).toNat = l.val → s.arg p 1 = m.code.setWidth 16 → (s.arg p 3).toNat ≤ 1023 →
    (s.lock l).enabled = true → (s.lock l).heldBy p = false → (s.lock l).queuedBy p = false →
    (s.lock l).mode ≠ .free → ((s.lock l).mode = .shared → m = .shared → (s.lock l).queue ≠ []) →
    (s.arg p 2 = 0 → exec (.acquire p) s = .next (s.post p 0x10 .busy []))
      ∧ (s.arg p 2 = 1 → s.freeEntries = 0 → exec (.acquire p) s = .next (s.post p 0x10 .noEntry []))
      ∧ (s.arg p 2 = 1 → s.freeEntries ≠ 0 → ∃ t, exec (.acquire p) s = .next t
          ∧ t.lock l = { s.lock l with
              queue := (s.lock l).queue ++
                [{ port := p, mode := m, wait := if (s.arg p 3).toNat = 0 then none else some (s.arg p 3).toNat }] }
          ∧ t.port p = (s.port p).posted 0x10 .queued [numWord ((s.lock l).queue.length + 1)]
          ∧ s.SameOtherPorts t p ∧ s.SameOtherLocks t l ∧ s.SameChip t)

/-- R7, R8: the checks of ACQUIRE in their order, each posting its result and changing nothing else: BAD_LOCK for a number of 32
or more or a disabled lock, BAD_ARG for a malformed field, ALREADY_HELD, ALREADY_QUEUED. -/
def Obligations.AcquireChecksInOrder : Prop :=
  ∀ (s : State) (p : Port), s.CanCommand p →
    (32 ≤ (s.arg p 0).toNat → exec (.acquire p) s = .next (s.post p 0x10 .badLock []))
      ∧ ∀ l : LockNo, (s.arg p 0).toNat = l.val →
        ((s.lock l).enabled = false → exec (.acquire p) s = .next (s.post p 0x10 .badLock []))
        ∧ ((s.lock l).enabled = true →
            ((s.arg p 1 ≠ 1 ∧ s.arg p 1 ≠ 2) ∨ (s.arg p 2 ≠ 0 ∧ s.arg p 2 ≠ 1) ∨ 1023 < (s.arg p 3).toNat) →
            exec (.acquire p) s = .next (s.post p 0x10 .badArg []))
        ∧ ((s.lock l).enabled = true → (s.arg p 1 = 1 ∨ s.arg p 1 = 2) → (s.arg p 2 = 0 ∨ s.arg p 2 = 1) →
            (s.arg p 3).toNat ≤ 1023 →
            ((s.lock l).heldBy p = true → exec (.acquire p) s = .next (s.post p 0x10 .alreadyHeld []))
            ∧ ((s.lock l).heldBy p = false → (s.lock l).queuedBy p = true →
                exec (.acquire p) s = .next (s.post p 0x10 .alreadyQueued [])))

/-- R13, R14: re-evaluation of a lock. A FREE lock with an EXCLUSIVE head grants the head alone; a FREE or SHARED lock with a
SHARED head grants the SHARED entries that stand together at the head; the lease is loaded from FREE and kept otherwise, and
each granted port gets its GRANTED bit. In every other state nothing is granted and nothing changes. -/
def Obligations.ReevaluationGrantsOneBatch : Prop :=
  ∀ r : LockRec,
    (∀ e rest, r.queue = e :: rest → e.mode = .exclusive → r.mode = .free →
      r.reevaluate.record = { r with
          mode := .exclusive, holders := r.holders.insert e.port, queue := rest
          leaseLeft := if r.leaseLength = 0 then none else some r.leaseLength }
        ∧ r.reevaluate.granted = PortSet.ofList [e.port])
    ∧ (∀ e batch rest, r.queue = e :: batch ++ rest → (∀ x ∈ e :: batch, x.mode = .shared) →
        (∀ x, rest.head? = some x → x.mode = .exclusive) → r.mode ≠ .exclusive →
        r.reevaluate.record.mode = .shared ∧ r.reevaluate.record.queue = rest
          ∧ (∀ q, r.reevaluate.record.heldBy q = (r.heldBy q || (e :: batch).any fun x => x.port == q))
          ∧ (∀ q, r.reevaluate.granted.has q = (e :: batch).any fun x => x.port == q)
          ∧ r.reevaluate.record.leaseLeft =
              (if r.mode = .free then (if r.leaseLength = 0 then none else some r.leaseLength) else r.leaseLeft)
          ∧ r.reevaluate.record.enabled = r.enabled ∧ r.reevaluate.record.leaseLength = r.leaseLength)
    ∧ ((r.queue = [] ∨ r.mode = .exclusive
          ∨ (r.mode = .shared ∧ ∃ e rest, r.queue = e :: rest ∧ e.mode = .exclusive)) →
        r.reevaluate.record = r ∧ r.reevaluate.granted = 0)
    ∧ r.reevaluate.revoked = 0 ∧ r.reevaluate.waitEnd = 0

/-- R16: a RELEASE by a holder removes it, frees the lock and stops its lease if it was the last, re-evaluates the lock, and
posts OK; GRANTED bits go to the ports granted, and nothing else changes. -/
def Obligations.ReleaseByHolder : Prop :=
  ∀ (s : State) (p : Port) (l : LockNo), s.CanCommand p → (s.arg p 0).toNat = l.val → (s.lock l).heldBy p = true →
    ∃ (d : LockRec) (t : State),
      d = (if (s.lock l).holders.erase p = 0 then { s.lock l with holders := 0, mode := .free, leaseLeft := none }
        else { s.lock l with holders := (s.lock l).holders.erase p })
      ∧ exec (.release p) s = .next t ∧ t.lock l = d.reevaluate.record
      ∧ s.LockBitsAdded t l d.reevaluate.granted 0 0
      ∧ (t.port p).noLockBits = ((s.port p).posted 0x11 .ok []).noLockBits
      ∧ (∀ q, q ≠ p → (t.port q).noLockBits = (s.port q).noLockBits)
      ∧ s.SameOtherLocks t l ∧ s.SameChip t

/-- R17, R18: a RELEASE or RENEW by a port that does not hold the lock changes no lock and posts LATE if its REVOKED bit for the
lock stands, NOT_HOLDER otherwise; a lock number of 32 or more posts BAD_LOCK. -/
def Obligations.ReleaseAndRenewByOthers : Prop :=
  ∀ (s : State) (p : Port), s.CanCommand p →
    (32 ≤ (s.arg p 0).toNat → exec (.release p) s = .next (s.post p 0x11 .badLock [])
        ∧ exec (.renew p) s = .next (s.post p 0x12 .badLock []))
      ∧ ∀ l : LockNo, (s.arg p 0).toNat = l.val → (s.lock l).heldBy p = false →
        ((s.port p).revoked.has l = true →
            exec (.release p) s = .next (s.post p 0x11 .late []) ∧ exec (.renew p) s = .next (s.post p 0x12 .late []))
        ∧ ((s.port p).revoked.has l = false →
            exec (.release p) s = .next (s.post p 0x11 .notHolder [])
              ∧ exec (.renew p) s = .next (s.post p 0x12 .notHolder []))

/-- R18: a RENEW by a holder sets the lease remaining of a leased lock to its lease length, leaves an unleased lock as it is, and
shows in RES0 the lease remaining, 0 where there is none; nothing else changes. -/
def Obligations.RenewReloadsTheLease : Prop :=
  ∀ (s : State) (p : Port) (l : LockNo), s.CanCommand p → (s.arg p 0).toNat = l.val → (s.lock l).heldBy p = true →
    ∃ t, exec (.renew p) s = .next t
      ∧ ((s.lock l).leaseLength ≠ 0 → t.lock l = { s.lock l with leaseLeft := some (s.lock l).leaseLength })
      ∧ ((s.lock l).leaseLength = 0 → t.lock l = s.lock l)
      ∧ t.port p = (s.port p).posted 0x12 .ok [ticksWord (t.lock l).leaseLeft]
      ∧ s.SameOtherPorts t p ∧ s.SameOtherLocks t l ∧ s.SameChip t

/-- R19, R20: WITHDRAW takes the port's entry out of the queue, re-evaluates the lock and posts OK, setting no WAITEND bit;
without an entry it posts HELD to a holder and NOT_QUEUED to any other, BAD_LOCK for a number of 32 or more, and changes no
lock. -/
def Obligations.WithdrawTakesBackTheRequest : Prop :=
  ∀ (s : State) (p : Port), s.CanCommand p →
    (32 ≤ (s.arg p 0).toNat → exec (.withdraw p) s = .next (s.post p 0x13 .badLock []))
      ∧ ∀ l : LockNo, (s.arg p 0).toNat = l.val →
        ((s.lock l).queuedBy p = true → ∃ (d : LockRec) (t : State),
            d = { s.lock l with queue := (s.lock l).queue.filter fun e => e.port != p }
            ∧ exec (.withdraw p) s = .next t ∧ t.lock l = d.reevaluate.record
            ∧ s.LockBitsAdded t l d.reevaluate.granted 0 0
            ∧ (t.port p).noLockBits = ((s.port p).posted 0x13 .ok []).noLockBits
            ∧ (∀ q, q ≠ p → (t.port q).noLockBits = (s.port q).noLockBits)
            ∧ s.SameOtherLocks t l ∧ s.SameChip t)
        ∧ ((s.lock l).queuedBy p = false → (s.lock l).heldBy p = true →
            exec (.withdraw p) s = .next (s.post p 0x13 .held []))
        ∧ ((s.lock l).queuedBy p = false → (s.lock l).heldBy p = false →
            exec (.withdraw p) s = .next (s.post p 0x13 .notQueued []))

/-- R21, Table 10-7: LOCK_STATUS changes nothing and posts OK with the lock's state: RES0 enabled, mode, holders and queue
length; RES1 and RES2 the lease; then two words for each queue position, 0000H where the position is empty. The bits that the
layout does not assign read 0 (R185). -/
def Obligations.LockStatusReportsTheLock : Prop :=
  ∀ (s : State) (p : Port), s.CanCommand p →
    (32 ≤ (s.arg p 0).toNat → exec (.lockStatus p) s = .next (s.post p 0x14 .badLock []))
      ∧ ∀ l : LockNo, (s.arg p 0).toNat = l.val → ∃ ws : List Word,
        exec (.lockStatus p) s = .next (s.post p 0x14 .ok ws) ∧ ws.length = 9
        ∧ (∀ w, ws[0]? = some w →
            w.getLsbD 0 = (s.lock l).enabled ∧ w.extractLsb' 1 2 = (s.lock l).mode.code
              ∧ w.extractLsb' 4 4 = (s.lock l).holders ∧ w.extractLsb' 10 6 = 0 ∧ w.getLsbD 3 = false
              ∧ ((s.lock l).Lawful → (w.extractLsb' 8 2).toNat = (s.lock l).queue.length))
        ∧ ws[1]? = some (numWord (s.lock l).leaseLength)
        ∧ ws[2]? = some (match (s.lock l).leaseLeft with
            | none => 0
            | some n => numWord n)
        ∧ ∀ k : Fin 3,
            ((s.lock l).queue[k.val]? = none → ws[3 + 2 * k.val]? = some 0 ∧ ws[4 + 2 * k.val]? = some 0)
            ∧ ∀ e, (s.lock l).queue[k.val]? = some e →
                (∀ w, ws[3 + 2 * k.val]? = some w →
                  w.getLsbD 15 = true ∧ w.extractLsb' 8 2 = e.mode.code ∧ (w.extractLsb' 0 2).toNat = e.port.val
                    ∧ w.extractLsb' 10 5 = 0 ∧ w.extractLsb' 2 6 = 0)
                ∧ ws[4 + 2 * k.val]? = some (match e.wait with
                    | none => 0
                    | some n => numWord n)

/-- R22: SET_LOCK by the control port posts BAD_LOCK, BAD_ARG or IN_USE in this order, and otherwise writes the enabled field and
the lease length and posts OK; nothing else changes. -/
def Obligations.SetLockWritesAFreeLock : Prop :=
  ∀ (s : State) (p : Port), s.CanCommand p → s.isControl p = true →
    (32 ≤ (s.arg p 0).toNat → exec (.setLock p) s = .next (s.post p 0x18 .badLock []))
      ∧ ∀ l : LockNo, (s.arg p 0).toNat = l.val →
        ((1 < (s.arg p 1).toNat ∨ 1023 < (s.arg p 2).toNat) → exec (.setLock p) s = .next (s.post p 0x18 .badArg []))
        ∧ ∀ e : Bool, s.arg p 1 = (if e then 1 else 0) → (s.arg p 2).toNat ≤ 1023 →
          (((s.lock l).holders ≠ 0 ∨ (s.lock l).queue ≠ []) → exec (.setLock p) s = .next (s.post p 0x18 .inUse []))
          ∧ ((s.lock l).holders = 0 → (s.lock l).queue = [] → ∃ t, exec (.setLock p) s = .next t
              ∧ t.lock l = { s.lock l with enabled := e, leaseLength := (s.arg p 2).toNat }
              ∧ t.port p = (s.port p).posted 0x18 .ok []
              ∧ s.SameOtherPorts t p ∧ s.SameOtherLocks t l ∧ s.SameChip t)

/-- R24, R25: BREAK by the control port revokes every holder with its REVOKED bit, frees the lock and stops the lease; with flush
1 every entry leaves with its WAITEND bit and the lock ends FREE with an empty queue; with flush 0 the queue is kept and the
lock is re-evaluated. It posts OK, or BAD_LOCK or BAD_ARG with no other change. -/
def Obligations.BreakRevokesAndFlushes : Prop :=
  ∀ (s : State) (p : Port), s.CanCommand p → s.isControl p = true →
    (32 ≤ (s.arg p 0).toNat → exec (.breakLock p) s = .next (s.post p 0x19 .badLock []))
      ∧ ∀ l : LockNo, (s.arg p 0).toNat = l.val →
        (1 < (s.arg p 1).toNat → exec (.breakLock p) s = .next (s.post p 0x19 .badArg []))
        ∧ (s.arg p 1 = 1 → ∃ t, exec (.breakLock p) s = .next t
            ∧ t.lock l = { s.lock l with holders := 0, mode := .free, leaseLeft := none, queue := [] }
            ∧ s.LockBitsAdded t l 0 (s.lock l).holders (PortSet.ofList ((s.lock l).queue.map Waiter.port))
            ∧ (t.port p).noLockBits = ((s.port p).posted 0x19 .ok []).noLockBits
            ∧ (∀ q, q ≠ p → (t.port q).noLockBits = (s.port q).noLockBits)
            ∧ s.SameOtherLocks t l ∧ s.SameChip t)
        ∧ (s.arg p 1 = 0 → ∃ (d : LockRec) (t : State),
            d = { s.lock l with holders := 0, mode := .free, leaseLeft := none }
            ∧ exec (.breakLock p) s = .next t ∧ t.lock l = d.reevaluate.record
            ∧ s.LockBitsAdded t l d.reevaluate.granted (s.lock l).holders 0
            ∧ (t.port p).noLockBits = ((s.port p).posted 0x19 .ok []).noLockBits
            ∧ (∀ q, q ≠ p → (t.port q).noLockBits = (s.port q).noLockBits)
            ∧ s.SameOtherLocks t l ∧ s.SameChip t)

/-! ### The lease timer -/

/-- R33, R70, R136: three configuration commands of the control port. SET_TICK posts BAD_ARG for a value above 255, and otherwise sets D and restarts the
count from 0; SET_DEFAULT_RIGHTS posts BAD_ARG when bits 15:8 are not zero, and otherwise writes all eight flags; SET_QUOTA
posts BAD_ARG for a port of 4 or more or a quota above 32, IN_USE for a quota below the port's queue length, and otherwise sets
the quota. An accepted command posts OK. Nothing else changes. -/
def Obligations.ConfigurationCommandsWriteTheirWords : Prop :=
  ∀ (s : State) (p : Port), s.CanCommand p → s.isControl p = true →
    (255 < (s.arg p 0).toNat → exec (.setTick p) s = .next (s.post p 0x1A .badArg []))
      ∧ ((s.arg p 0).toNat ≤ 255 → exec (.setTick p) s =
          .next (({ s with divider := (s.arg p 0).setWidth 8, count := 0 } : State).post p 0x1A .ok []))
      ∧ (256 ≤ (s.arg p 0).toNat → exec (.setDefaultRights p) s = .next (s.post p 0x29 .badArg []))
      ∧ ((s.arg p 0).toNat < 256 → exec (.setDefaultRights p) s =
          .next (({ s with defaultRights := (s.arg p 0).setWidth 8 } : State).post p 0x29 .ok []))
      ∧ ((3 < (s.arg p 0).toNat ∨ 32 < (s.arg p 1).toNat) → exec (.setQuota p) s = .next (s.post p 0x48 .badArg []))
      ∧ ∀ q : Port, (s.arg p 0).toNat = q.val → (s.arg p 1).toNat ≤ 32 →
        ((s.arg p 1).toNat < (s.port q).inbox.length → exec (.setQuota p) s = .next (s.post p 0x48 .inUse []))
        ∧ ((s.port q).inbox.length ≤ (s.arg p 1).toNat → exec (.setQuota p) s =
            .next ((s.onPort q fun r => { r with quota := (s.arg p 1).toNat }).post p 0x48 .ok []))

/-- R35, R36, R37, R38, R40, R41: a lease tick works on every lock: entries whose wait is 1 leave with the WAITEND bit, the other waits are reduced by one, a lease of more than 1 is reduced
by one, a lease of 1 ends with REVOKED bits to the holders and the lock FREE, and then the lock is re-evaluated. Nothing else
of the part changes but the running count. That the event LEASE_TICK starts the count again from 0 wherever it stands, and that
it changes nothing while RESETn is asserted, is the model's choice (log entry 8, DESIGN CHOICE). -/
def Obligations.LeaseTickCountsEveryLock : Prop :=
  ∀ s : State, s.LocksLawful →
    (s.resetAsserted = true → exec .leaseTick s = .next s)
    ∧ (s.resetAsserted = false → ∃ t, exec .leaseTick s = .next t ∧ t.count = 0
        ∧ (∀ l, ∃ w d : LockRec,
            w = { s.lock l with
                  queue := ((s.lock l).queue.filter fun e => e.wait != some 1).map
                    fun e => { e with wait := e.wait.map fun n => n - 1 } }
            ∧ d = (if (s.lock l).leaseLeft = some 1 then { w with holders := 0, mode := .free, leaseLeft := none }
                else { w with leaseLeft := (s.lock l).leaseLeft.map fun n => n - 1 })
            ∧ t.lock l = d.reevaluate.record
            ∧ ∀ q, (t.port q).granted.has l =
                  ((s.port q).granted.has l || (s.attached q && d.reevaluate.granted.has q))
                ∧ (t.port q).revoked.has l =
                  ((s.port q).revoked.has l
                    || (s.attached q && (decide ((s.lock l).leaseLeft = some 1) && (s.lock l).heldBy q)))
                ∧ (t.port q).waitEnd.has l =
                  ((s.port q).waitEnd.has l
                    || (s.attached q && (s.lock l).queue.any fun e => e.port == q && e.wait == some 1)))
        ∧ (∀ q, (t.port q).noLockBits = (s.port q).noLockBits)
        ∧ s.SameChip { t with count := s.count })

/-- R38, R39, R41: the two expiries as events of their own (the model's choice, log entry 5). An entry with one tick left leaves
its queue, its port gets the WAITEND bit, and the lock is re-evaluated; a lease with one tick left ends, its holders get their
REVOKED bits, and the head batch is granted; otherwise nothing expires and nothing changes. -/
def Obligations.ExpiriesEndWaitsAndLeases : Prop :=
  ∀ (s : State) (l : LockNo), (s.lock l).Lawful →
    (∀ p : Port, ((∃ e ∈ (s.lock l).queue, e.port = p ∧ e.wait = some 1) → ∃ (d : LockRec) (t : State),
        d = { s.lock l with queue := (s.lock l).queue.filter fun e => e.port != p }
        ∧ exec (.waitExpiry l p) s = .next t ∧ t.lock l = d.reevaluate.record
        ∧ s.LockBitsAdded t l d.reevaluate.granted 0 (PortSet.ofList [p])
        ∧ (∀ q, (t.port q).noLockBits = (s.port q).noLockBits) ∧ s.SameOtherLocks t l ∧ s.SameChip t)
      ∧ ((∀ e ∈ (s.lock l).queue, e.port = p → e.wait ≠ some 1) → exec (.waitExpiry l p) s = .next s))
    ∧ ((s.lock l).leaseLeft = some 1 → ∃ (d : LockRec) (t : State),
        d = { s.lock l with holders := 0, mode := .free, leaseLeft := none }
        ∧ exec (.leaseExpiry l) s = .next t ∧ t.lock l = d.reevaluate.record
        ∧ s.LockBitsAdded t l d.reevaluate.granted (s.lock l).holders 0
        ∧ (∀ q, (t.port q).noLockBits = (s.port q).noLockBits) ∧ s.SameOtherLocks t l ∧ s.SameChip t)
    ∧ ((s.lock l).leaseLeft ≠ some 1 → exec (.leaseExpiry l) s = .next s)

/-! ### The window unit -/

/-- R58, R59: the lookup. An enabled window i whose range [base, base + 2^k) contains v, with no such window of lower index, is
the hit window and gives target + (v - base); with no such window v below 8000H is a default address mapped to itself, and v
from 8000H is unmapped. -/
def Obligations.LookupTakesTheLowestWindow : Prop :=
  ∀ (s : State) (v : Word), s.WindowsLawful →
    (∀ i : WindowNo, (s.window i).enabled = true → (s.window i).viewBase.toNat ≤ v.toNat →
        v.toNat < (s.window i).viewBase.toNat + 2 ^ (s.window i).size →
        (∀ j : WindowNo, j < i → ¬((s.window j).enabled = true ∧ (s.window j).viewBase.toNat ≤ v.toNat
          ∧ v.toNat < (s.window j).viewBase.toNat + 2 ^ (s.window j).size)) →
        ∃ a : MemAddr, s.lookup v = .hit i a
          ∧ a.toNat = (s.window i).targetBase.toNat + (v.toNat - (s.window i).viewBase.toNat))
    ∧ ((∀ j : WindowNo, ¬((s.window j).enabled = true ∧ (s.window j).viewBase.toNat ≤ v.toNat
          ∧ v.toNat < (s.window j).viewBase.toNat + 2 ^ (s.window j).size)) →
        (v.toNat < 0x8000 → ∃ a : MemAddr, s.lookup v = .default a ∧ a.toNat = v.toNat)
          ∧ (0x8000 ≤ v.toNat → s.lookup v = .unmapped))

/-- R26, R60, R61: the checks in their order. Unmapped gives UNMAPPED; without the right for the direction, RIGHTS; through a
guarded window, a write without an exclusive hold of the enabled guard lock, or with guard reads a read without any hold,
GUARD; otherwise permitted at the memory address of the lookup. -/
def Obligations.ChecksInOrder : Prop :=
  ∀ (s : State) (p : Port) (v : Word) (d : Dir),
    (s.lookup v = .unmapped → s.check p v d = .refused .unmapped)
    ∧ (∀ a, s.lookup v = .default a →
        s.check p v d = if s.defaultRights.getLsbD (2 * p.val + if d = .write then 1 else 0) then .permitted a
          else .refused .rights)
    ∧ ∀ i a, s.lookup v = .hit i a →
        ((s.window i).rights.getLsbD (2 * p.val + if d = .write then 1 else 0) = false →
          s.check p v d = .refused .rights)
        ∧ ((s.window i).rights.getLsbD (2 * p.val + if d = .write then 1 else 0) = true →
          ((s.window i).guard = none → s.check p v d = .permitted a)
          ∧ ∀ l, (s.window i).guard = some l →
            (d = .write → s.check p v d =
              if (s.lock l).enabled = true ∧ (s.lock l).mode = .exclusive ∧ (s.lock l).heldBy p = true then .permitted a
              else .refused .guard)
            ∧ (d = .read → s.check p v d =
              if (s.window i).guardReads = false ∨ ((s.lock l).enabled = true ∧ (s.lock l).heldBy p = true) then
                .permitted a
              else .refused .guard))

/-- R71, R72, R73, Tables 10-9 and 10-10: PROBE and GET_WINDOW. PROBE changes nothing. With a port number of 4 or more, or a direction that is neither
0 nor 1, it posts BAD_ARG; otherwise OK with the lookup kind, the hit window, the memory address, the hit window's guard lock
and the check outcome for the port named. GET_WINDOW changes nothing: it posts BAD_ARG for an index of 16 or more, and
otherwise OK with every field of the record as stored. -/
def Obligations.ProbeAndGetWindowOnlyReport : Prop :=
  ∀ (s : State) (p : Port), s.CanCommand p →
    ((3 < (s.arg p 1).toNat ∨ 1 < (s.arg p 2).toNat) → exec (.probe p) s = .next (s.post p 0x20 .badArg []))
      ∧ (∀ (q : Port) (d : Dir), (s.arg p 1).toNat = q.val → s.arg p 2 = d.code.setWidth 16 → ∃ r4 : Word,
        (r4 = match s.check q (s.arg p 0) d with
          | .permitted _ => 0
          | .refused .unmapped => 1
          | .refused .rights => 2
          | .refused .guard => 3)
        ∧ (s.lookup (s.arg p 0) = .unmapped → exec (.probe p) s = .next (s.post p 0x20 .ok [2, 0, 0, 0, r4]))
        ∧ (∀ a, s.lookup (s.arg p 0) = .default a →
            exec (.probe p) s = .next (s.post p 0x20 .ok [1, 0, a.setWidth 16, 0, r4]))
        ∧ ∀ i a, s.lookup (s.arg p 0) = .hit i a → exec (.probe p) s = .next (s.post p 0x20 .ok
            [0, BitVec.ofNat 16 (0x8000 + i.val), a.setWidth 16,
             (match (s.window i).guard with
               | none => 0
               | some l => BitVec.ofNat 16 (0x8000 + l.val)), r4]))
      ∧ (16 ≤ (s.arg p 0).toNat → exec (.getWindow p) s = .next (s.post p 0x21 .badArg []))
      ∧ ∀ i : WindowNo, (s.arg p 0).toNat = i.val → ∃ g : Word,
        exec (.getWindow p) s = .next (s.post p 0x21 .ok
            [BitVec.ofNat 16 i.val, if (s.window i).enabled then 1 else 0, BitVec.ofNat 16 (s.window i).size,
             (s.window i).viewBase, (s.window i).targetBase.setWidth 16, (s.window i).rights.setWidth 16, g])
        ∧ g.extractLsb' 10 6 = 0 ∧ g.getLsbD 9 = (s.window i).guardReads ∧ g.getLsbD 8 = (s.window i).guard.isSome
        ∧ (g.extractLsb' 0 8).toNat = (match (s.window i).guard with
            | none => 0
            | some l => l.val)

/-- R67, R68: SET_WINDOW by the control port posts BAD_ARG and changes no record for an index of 16 or more, an enabled flag
other than 0 and 1, k outside 4 to 15, a base that is no multiple of 2^k, a target of 8000H or above, a must-be-zero bit set,
or a present guard lock of 32 or more. Otherwise it replaces the named record whole, with the guard lock absent when the
guard-present flag is clear, and posts OK; nothing else changes. -/
def Obligations.SetWindowReplacesTheRecord : Prop :=
  ∀ (s : State) (p : Port), s.CanCommand p → s.isControl p = true →
    ((16 ≤ (s.arg p 0).toNat ∨ 1 < (s.arg p 1).toNat ∨ (s.arg p 2).toNat < 4 ∨ 15 < (s.arg p 2).toNat
        ∨ (s.arg p 3).toNat % 2 ^ (s.arg p 2).toNat ≠ 0 ∨ 0x8000 ≤ (s.arg p 4).toNat
        ∨ (s.arg p 4).toNat % 2 ^ (s.arg p 2).toNat ≠ 0 ∨ 256 ≤ (s.arg p 5).toNat ∨ 1024 ≤ (s.arg p 6).toNat
        ∨ ((s.arg p 6).getLsbD 8 = true ∧ 32 ≤ (s.arg p 6).toNat % 256)) →
      exec (.setWindow p) s = .next (s.post p 0x28 .badArg []))
    ∧ ∀ (i : WindowNo) (e : Bool) (k : Nat),
      (s.arg p 0).toNat = i.val → s.arg p 1 = (if e then 1 else 0) → (s.arg p 2).toNat = k → 4 ≤ k → k ≤ 15 →
      (s.arg p 3).toNat % 2 ^ k = 0 → (s.arg p 4).toNat < 0x8000 → (s.arg p 4).toNat % 2 ^ k = 0 →
      (s.arg p 5).toNat < 256 → (s.arg p 6).toNat < 1024 →
      ((s.arg p 6).getLsbD 8 = true → (s.arg p 6).toNat % 256 < 32) →
      ∃ w : Window, exec (.setWindow p) s = .next ((s.setWindowRec i w).post p 0x28 .ok [])
        ∧ w.enabled = e ∧ w.size = k ∧ w.viewBase = s.arg p 3 ∧ w.targetBase.toNat = (s.arg p 4).toNat
        ∧ w.rights.toNat = (s.arg p 5).toNat ∧ w.guardReads = (s.arg p 6).getLsbD 9
        ∧ w.guard.map Fin.val = (if (s.arg p 6).getLsbD 8 then some ((s.arg p 6).toNat % 256) else none)

/-! ### The aperture and the arbiter -/

/-- R81, R92: an ADATA cycle of an ATTACHED port places one request with the direction, AADDR, the word and the session, and
touches neither memory nor AADDR nor the fault record; one of a DETACHED port is answered at once, a read with FFFFH, and
places no request. -/
def Obligations.AdataCyclesPlaceRequests : Prop :=
  ∀ (s : State) (p : Port) (w : Word), (s.port p).busy = false → (s.port p).cycleEnded = false →
    (s.attached p = true →
      exec (.adataRead p) s = .next (s.onPort p fun r =>
          { r with request := some { kind := .read, view := r.aaddr, session := r.session } })
      ∧ exec (.adataWrite p w) s = .next (s.onPort p fun r =>
          { r with request := some { kind := .write w, view := r.aaddr, session := r.session } }))
    ∧ ((s.port p).mode = .detached →
      exec (.adataRead p) s = .next (s.onPort p fun r => { r with answer := .data 0xFFFF })
      ∧ exec (.adataWrite p w) s = .next (s.onPort p fun r => { r with answer := .done }))

/-- R90, R91: the arbiter's choice is a waiting requester with no waiting requester before it in the cyclic order P0, P1, P2,
P3, engine counted from the position, and there is a choice exactly when the waiting set is not empty. A grant moves the
position past the granted requester and brings every other waiting requester strictly nearer to the front of the rotation,
where none is more than four grants away. -/
def Obligations.ArbiterGrantsInRotation : Prop :=
  ∀ s : State,
    (s.choice = none ↔ ∀ r, s.waits r = false)
    ∧ ∀ g, s.choice = some g → s.waits g = true
        ∧ (∀ r, s.waits r = true → (g.place - s.position.place).val ≤ (r.place - s.position.place).val)
        ∧ ∃ t, exec (if g = .engine then .copyWordMove else .apertureAccess) s = .next t
            ∧ t.position.place = g.place + 1
            ∧ ∀ r, s.waits r = true → r ≠ g →
                (r.place - t.position.place).val < (r.place - s.position.place).val
                  ∧ (r.place - s.position.place).val ≤ 4

/-- R82, R83, R85, R86, R87: the service of an ATTACHED port's access in the session it was taken in. Permitted: a read is
answered with the word at the memory address of the check, a write replaces exactly that word, and AADDR advances by AMODE.
Refused: a read is answered with FFFFH, no word changes, AADDR stays, and the fault fills an empty record or sets "more" in a
full one. Every other port is as before, and the position moves past the port. -/
def Obligations.ApertureAccessesAreServed : Prop :=
  ∀ (s : State) (p : Port) (q : AccessRequest), s.MemLaw → s.choice = some (.port p) → (s.port p).request = some q →
    s.attached p = true → (s.port p).session = q.session → (s.port p).held = [] → (s.port p).cycleEnded = false →
    ∃ t, exec .apertureAccess s = .next t ∧ s.SameOtherPorts t p
      ∧ t.position = (Requester.port p).following ∧ t.engine = s.engine ∧ (∀ l, t.lock l = s.lock l)
      ∧ (∀ i, t.window i = s.window i) ∧ t.defaultRights = s.defaultRights ∧ t.pending = s.pending
      ∧ t.divider = s.divider ∧ t.count = s.count ∧ t.control = s.control ∧ t.resetAsserted = s.resetAsserted
      ∧ (∀ a, s.check p q.view q.kind.dir = .permitted a →
          (∀ b, t.mem.read b = (match q.kind with
            | .read => s.mem.read b
            | .write w => if b = a.toNat then w else s.mem.read b))
          ∧ t.port p = { s.port p with
              request := none, aaddr := s.advance (s.port p).amode q.view
              answer := (match q.kind with
                | .read => .data (s.mem.read a.toNat)
                | .write _ => .done) })
      ∧ ∀ why, s.check p q.view q.kind.dir = .refused why →
          t.mem = s.mem
          ∧ t.port p = { s.port p with
              request := none
              answer := (match q.kind with
                | .read => .data 0xFFFF
                | .write _ => .done)
              fault := (match (s.port p).fault with
                | some f => some { f with more := true }
                | none => some {
                    kind := why, dir := q.kind.dir, view := q.view, mem := (s.lookup q.view).mem?
                    window := (s.lookup q.view).window?
                    guard := if why = .guard then s.guardAt q.view else none
                    more := false }) }

/-- R83, R84: the advance. HOLD leaves the address; STEP adds one and goes from FFFFH to 0000H; WRAP goes to the next address of the
serving range and from its last address to its first. -/
def Obligations.AddressAdvances : Prop :=
  ∀ (s : State) (v : Word), s.WindowsLawful →
    s.advance .hold v = v
    ∧ (s.advance .step v).toNat = (v.toNat + 1) % 65536
    ∧ (∀ a, s.lookup v = .default a → (s.advance .wrap v).toNat = (v.toNat + 1) % 0x8000)
    ∧ ∀ i a, s.lookup v = .hit i a →
        (s.advance .wrap v).toNat =
          (s.window i).viewBase.toNat + (v.toNat - (s.window i).viewBase.toNat + 1) % 2 ^ (s.window i).size

/-- R93, R82 step 1: an access whose session has ended is answered when it is granted as a not-attached access: a read gets FFFFH,
a write is discarded, AADDR, the fault record and the memory stay, and the position moves past the port. -/
def Obligations.EndedSessionsAccessesAreNotServed : Prop :=
  ∀ (s : State) (p : Port) (q : AccessRequest), s.choice = some (.port p) → (s.port p).request = some q →
    (s.attached p = false ∨ (s.port p).session ≠ q.session) → (s.port p).held = [] → (s.port p).cycleEnded = false →
    exec .apertureAccess s = .next (({ s with position := (Requester.port p).following } : State).onPort p fun r =>
      { r with
        request := none
        answer := (match q.kind with
          | .read => .data 0xFFFF
          | .write _ => .done) })

/-- R88, Table 10-15: TAKE_FAULT posts NO_RECORD on an empty record; on a full one it posts OK with the record's fields and empties
it. Nothing else changes. -/
def Obligations.TakeFaultEmptiesTheRecord : Prop :=
  ∀ (s : State) (p : Port), s.CanCommand p →
    ((s.port p).fault = none → exec (.takeFault p) s = .next (s.post p 0x52 .noRecord []))
      ∧ ∀ f, (s.port p).fault = some f → ∃ (w : Word),
        exec (.takeFault p) s = .next ((s.onPort p fun r => { r with fault := none }).post p 0x52 .ok
          [w, f.view, (match f.mem with
              | none => 0
              | some a => a.setWidth 16),
            (match f.window with
              | none => 0
              | some i => BitVec.ofNat 16 (0x8000 + i.val)),
            (match f.guard with
              | none => 0
              | some l => BitVec.ofNat 16 (0x8000 + l.val))])
        ∧ w.toNat = (if f.more then 256 else 0) + (if f.dir = .write then 16 else 0)
            + (match f.kind with
              | .unmapped => 1
              | .rights => 2
              | .guard => 3)

/-! ### The register window -/

/-- R80, R163, R79, R175, R178: the register writes of a port that responds. AMODE takes the codes 0 to 2 and ignores any other value;
EVEN_SET adds the flagged classes of an ATTACHED port and is ignored otherwise; EVEN_CLR removes them; ARG and AADDR store the
word; the other words ignore it. Nothing else changes. -/
def Obligations.RegisterWrites : Prop :=
  ∀ (s : State) (p : Port) (w : Word), s.Ready p →
    (∀ m : AdvanceMode, w = m.code.setWidth 16 → exec (.amodeWrite p w) s = .next (s.onPort p fun r => { r with amode := m }))
    ∧ (2 < w.toNat → exec (.amodeWrite p w) s = .next s)
    ∧ (s.attached p = true → exec (.evenSet p w) s =
        .next (s.onPort p fun r => { r with enables := r.enables ||| w.setWidth 7 }))
    ∧ (s.attached p = false → exec (.evenSet p w) s = .next s)
    ∧ exec (.evenClr p w) s = .next (s.onPort p fun r => { r with enables := r.enables &&& ~~~(w.setWidth 7) })
    ∧ (∀ i : Fin 8, exec (.registerWrite p (.arg i) w) s = .next (s.onPort p fun r => { r with args := r.args.set i w }))
    ∧ exec (.registerWrite p .aaddr w) s = .next (s.onPort p fun r => { r with aaddr := w })
    ∧ (∀ i, exec (.registerWrite p (.res i) w) s = .next s)
    ∧ exec (.registerWrite p .evsum w) s = .next s ∧ exec (.registerWrite p .even w) s = .next s
    ∧ exec (.registerWrite p .pstat w) s = .next s ∧ ∀ i, exec (.registerWrite p (.reserved i) w) s = .next s

/-- R171, R176, R180: the cycles of a port behind an unanswered one. A cycle started behind one that the agent ended early is
held, whatever the cycle. Where the newest cycle was not ended early, the start of another shows that the earlier ones have been
answered, and it runs on the state in which they have: one answer after the other, each with the reads a POOL_STATUS has left, its
posting, and the held cycles behind it, up to an access that waits at the arbiter; where there is one, no other cycle can have
been started and nothing changes (the model's choice, log entries 4, 6 and 9). A CMD cycle whose result is posted is answered by
a step on an empty queue, the lowest port first (log entry 4), and the held cycles are taken in the same event. The oldest held
cycle is taken on a bus of its own, as the command it is; the cycles behind it stay held if it is itself stretched, and are
taken in turn if not. An ADATA access ended early is served as any other, a read's data are lost, and the held cycles are taken
in the event of its service. -/
def Obligations.EarlyEndedCyclesHoldTheNext : Prop :=
  ∀ (s : State) (p : Port),
    (∀ c : Instr, c.port? = some p → c.wellFormed = true → (s.port p).mode ≠ .down → (s.port p).busy = true →
      ((s.port p).cycleEnded = true → exec c s = .next (s.onPort p (PortState.hold c)))
      ∧ ((s.port p).cycleEnded = false →
          (((s.caughtUp p).port p).busy = false → exec c s = exec c (s.caughtUp p))
          ∧ (((s.caughtUp p).port p).busy = true → exec c s = .next s)))
    ∧ (((s.port p).request ≠ none ∨ (s.port p).busy = false) → s.caughtUp p = s)
    ∧ ((s.port p).request = none → (s.port p).busy = true → s.caughtUp p = (s.answerBus p).caughtUp p)
    ∧ s.answerBus p = takeHeld p (s.port p).cycleEnded (s.port p).held
        (match (s.port p).command with
          | some (.reading done left) =>
            (s.post p 0x60 .ok (done ++ left.map s.poolValue)).onPort p fun r => { r with command := none }
          | some .posted => s.onPort p fun r => { r with command := none }
          | none => s)
    ∧ ((s.port p).request = none → (s.port p).command = some .posted → (s.port p).held = [] →
        s.caughtUp p = s.onPort p fun r => { r with command := none, cycleEnded := false })
    ∧ (s.pending = [] → (s.port p).request = none → (s.port p).command = some .posted →
        (∀ q, q < p → (s.port q).answerable = false) →
        step s = .next (takeHeld p (s.port p).cycleEnded (s.port p).held (s.onPort p fun r => { r with command := none })))
    ∧ (∀ ended : Bool,
        takeHeld p ended [] s = s.setHeld p [] false
        ∧ ∀ (c : Instr) (rest : List Instr), c.port? = some p → c.wellFormed = true → (s.port p).mode ≠ .down →
            (s.port p).request = none → (s.port p).command = none →
            ∃ t, exec c (s.setHeld p [] (ended || !rest.isEmpty)) = .next t
              ∧ takeHeld p ended (c :: rest) s =
                  if (t.port p).stretched = true then t.setHeld p rest ended else takeHeld p ended rest t)
    ∧ ∀ q : AccessRequest, s.choice = some (.port p) → (s.port p).request = some q →
        ∃ t, exec .apertureAccess (s.setHeld p [] false) = .next t
          ∧ exec .apertureAccess s = .next (takeHeld p (s.port p).cycleEnded (s.port p).held
              (if q.kind = .read ∧ ((s.port p).cycleEnded = true ∨ (s.port p).held ≠ []) then
                t.onPort p fun r => { r with answer := .lost }
              else t))

/-! ### The copy engine -/

/-- R99, R103, R104: COPY and FILL. Their checks, in order: BAD_ARG for a length of 0 or above 4096 or a tag above 255, COPY_LIMIT
at four descriptors and records, QUEUE_FULL at eight descriptors; each changes nothing else. An accepted one advances the
port's serial counter, puts a descriptor with the new serial at the tail of the queue, and returns the serial in RES0; an IDLE
engine becomes RUNNING with it ACTIVE and its request waiting; nothing else changes. -/
def Obligations.CopyAndFillAreCheckedAndAccepted : Prop :=
  ∀ (s : State) (p : Port), s.CanCommand p →
    ((255 < (s.arg p 0).toNat ∨ (s.arg p 3).toNat = 0 ∨ 4096 < (s.arg p 3).toNat) →
        exec (.copy p) s = .next (s.post p 0x30 .badArg []) ∧ exec (.fill p) s = .next (s.post p 0x31 .badArg []))
      ∧ ((s.arg p 0).toNat ≤ 255 → 1 ≤ (s.arg p 3).toNat → (s.arg p 3).toNat ≤ 4096 →
          (4 ≤ s.copyCount p →
            exec (.copy p) s = .next (s.post p 0x30 .copyLimit [])
              ∧ exec (.fill p) s = .next (s.post p 0x31 .copyLimit []))
          ∧ (s.copyCount p < 4 → 8 ≤ s.engine.queue.length →
              exec (.copy p) s = .next (s.post p 0x30 .queueFull [])
                ∧ exec (.fill p) s = .next (s.post p 0x31 .queueFull []))
          ∧ (s.copyCount p < 4 → s.engine.queue.length < 8 → s.engine.Lawful →
              ∃ (d : CopyJob → Descriptor) (after : CopyJob → Engine),
                (∀ j, d j = { requester := p, serial := (s.port p).serial + 1, tag := (s.arg p 0).setWidth 8, job := j,
                              dest := s.arg p 2, length := (s.arg p 3).toNat, moved := 0,
                              state := if s.engine.mode = .idle then .active else .queued })
                ∧ (∀ j, after j = { queue := s.engine.queue ++ [d j],
                                    mode := if s.engine.mode = .idle then .running else s.engine.mode,
                                    requesting := decide (s.engine.mode ≠ .paused) })
                ∧ exec (.copy p) s = .next (((s.setEngine (after (.copy (s.arg p 1)))).onPort p fun r =>
                    { r with serial := r.serial + 1 }).post p 0x30 .ok [((s.port p).serial + 1).setWidth 16])
                ∧ exec (.fill p) s = .next (((s.setEngine (after (.fill (s.arg p 1)))).onPort p fun r =>
                    { r with serial := r.serial + 1 }).post p 0x31 .ok [((s.port p).serial + 1).setWidth 16])))

/-- R106, R107, R108, R112: a permitted word move of the head descriptor. The word written, at the memory address of the destination
check, is the pattern or the source word read before it; every other word reads as before. Words moved rises by one; at the
length the descriptor leaves with a DONE record at the tail of its requester's list, and the engine takes its next step with
the rest of the queue (`Engine.settle`, stated by EngineStateChanges). Nothing else changes. -/
def Obligations.WordMovesCopyOneWord : Prop :=
  ∀ (s : State) (d : Descriptor) (rest : List Descriptor) (b : MemAddr) (w : Word), s.MemLaw → s.engine.Lawful →
    s.choice = some .engine → s.engine.queue = d :: rest →
    s.check d.requester (d.dest + BitVec.ofNat 16 d.moved) .write = .permitted b →
    (match d.job with
      | .fill pattern => w = pattern
      | .copy source => ∃ a, s.check d.requester (source + BitVec.ofNat 16 d.moved) .read = .permitted a
          ∧ w = s.mem.read a.toNat) →
    ∃ t, exec .copyWordMove s = .next t ∧ t.position = .port 0
      ∧ (∀ a, t.mem.read a = if a = b.toNat then w else s.mem.read a)
      ∧ (∀ l, t.lock l = s.lock l) ∧ (∀ i, t.window i = s.window i)
      ∧ t.defaultRights = s.defaultRights ∧ t.control = s.control ∧ t.resetAsserted = s.resetAsserted ∧ t.divider = s.divider
      ∧ t.count = s.count ∧ t.pending = s.pending
      ∧ (d.moved + 1 < d.length →
          t.engine = { s.engine with queue := { d with moved := d.moved + 1 } :: rest } ∧ ∀ p, t.port p = s.port p)
      ∧ (d.moved + 1 = d.length →
          t.engine = ({ s.engine with queue := rest } : Engine).settle ∧ s.SameOtherPorts t d.requester
            ∧ t.port d.requester = { s.port d.requester with
                completions := (s.port d.requester).completions ++
                  [{ serial := d.serial, tag := d.tag, status := .done, moved := d.length
                     kind := (match d.job with
                       | .copy _ => .copy
                       | .fill _ => .fill) }] })

/-- R109, R112: a refused word move ends the descriptor with the refusal: nothing is written, words moved is kept, and the record
carries the view address and direction of the refused check, the source's where both would be refused. The descriptors behind
it stay, and the engine takes its next step (`Engine.settle`). No fault record changes, nor anything else. -/
def Obligations.RefusedWordsEndTheDescriptor : Prop :=
  ∀ (s : State) (d : Descriptor) (rest : List Descriptor) (why : Refused) (v : Word) (dir : Dir),
    s.choice = some .engine → s.engine.queue = d :: rest →
    ((∃ source, d.job = .copy source ∧ v = source + BitVec.ofNat 16 d.moved ∧ dir = .read
        ∧ s.check d.requester v .read = .refused why)
      ∨ ((∀ source, d.job = .copy source →
            ∃ a, s.check d.requester (source + BitVec.ofNat 16 d.moved) .read = .permitted a)
          ∧ v = d.dest + BitVec.ofNat 16 d.moved ∧ dir = .write ∧ s.check d.requester v .write = .refused why)) →
    ∃ t, exec .copyWordMove s = .next t ∧ t.mem = s.mem ∧ t.position = .port 0
      ∧ t.engine = ({ s.engine with queue := rest } : Engine).settle ∧ s.SameOtherPorts t d.requester
      ∧ (∀ l, t.lock l = s.lock l) ∧ (∀ i, t.window i = s.window i)
      ∧ t.defaultRights = s.defaultRights ∧ t.control = s.control ∧ t.resetAsserted = s.resetAsserted ∧ t.divider = s.divider
      ∧ t.count = s.count ∧ t.pending = s.pending
      ∧ t.port d.requester = { s.port d.requester with
          completions := (s.port d.requester).completions ++
            [{ serial := d.serial, tag := d.tag, status := .refused why v dir, moved := d.moved
               kind := (match d.job with
                 | .copy _ => .copy
                 | .fill _ => .fill) }] }

/-- R114, R115, R116: CANCEL_COPY ends the issuing port's oldest descriptor with the serial: it leaves the queue, a CANCELLED record
with its words moved joins the port's list, and OK is posted; with no such descriptor a record with the serial gives COMPLETE,
and nothing gives NO_SUCH_COPY; a serial above 255 gives BAD_ARG. -/
def Obligations.CancelEndsOwnDescriptor : Prop :=
  ∀ (s : State) (p : Port), s.CanCommand p →
    (255 < (s.arg p 0).toNat → exec (.cancelCopy p) s = .next (s.post p 0x32 .badArg []))
      ∧ ∀ n : Byte, (s.arg p 0).toNat = n.toNat →
        (∀ before d behind, s.engine.queue = before ++ d :: behind → d.requester = p → d.serial = n →
            (∀ x ∈ before, ¬(x.requester = p ∧ x.serial = n)) →
            exec (.cancelCopy p) s =
              .next (((s.setEngine ({ s.engine with queue := before ++ behind } : Engine).settle).onPort p fun r =>
                { r with completions := r.completions ++
                    [{ serial := d.serial, tag := d.tag, status := .cancelled, moved := d.moved
                       kind := (match d.job with
                         | .copy _ => .copy
                         | .fill _ => .fill) }] }).post p 0x32 .ok []))
        ∧ ((∀ x ∈ s.engine.queue, ¬(x.requester = p ∧ x.serial = n)) →
            ((∃ c ∈ (s.port p).completions, c.serial = n) →
                exec (.cancelCopy p) s = .next (s.post p 0x32 .complete []))
            ∧ ((∀ c ∈ (s.port p).completions, c.serial ≠ n) →
                exec (.cancelCopy p) s = .next (s.post p 0x32 .noSuchCopy [])))

/-- R113, Table 10-12: TAKE_COMPLETION posts NO_RECORD on an empty list; otherwise OK with the oldest record's fields, which leaves
the list. Nothing else changes. -/
def Obligations.TakeCompletionTakesTheOldest : Prop :=
  ∀ (s : State) (p : Port), s.CanCommand p →
    ((s.port p).completions = [] → exec (.takeCompletion p) s = .next (s.post p 0x33 .noRecord []))
      ∧ ∀ c cs, (s.port p).completions = c :: cs → ∃ (w v : Word),
        exec (.takeCompletion p) s = .next ((s.onPort p fun r => { r with completions := cs }).post p 0x33 .ok
          [c.serial.setWidth 16, c.tag.setWidth 16, w, BitVec.ofNat 16 c.moved, v])
        ∧ (match c.status with
          | .done => v = 0 ∧ w.toNat = (if c.kind = .fill then 256 else 0)
          | .cancelled => v = 0 ∧ w.toNat = (if c.kind = .fill then 256 else 0) + 4
          | .refused why a d => v = a ∧ w.toNat = (if c.kind = .fill then 256 else 0) + (if d = .write then 512 else 0)
              + (match why with
                | .unmapped => 1
                | .rights => 2
                | .guard => 3))

/-- R101, R105, R117, R118: PAUSE_COPY by the control port makes the engine PAUSED, withdraws its request and keeps the queue;
RESUME_COPY makes a PAUSED engine RUNNING with its head ACTIVE, or IDLE on an empty queue, and changes no other engine; both
post OK. The engine's step of Table 5-2, which every ending and removal takes: PAUSED keeps the queue and has no request; IDLE
or RUNNING with an empty queue is IDLE without a request; with a queue it is RUNNING, its head ACTIVE, its request waiting. -/
def Obligations.EngineStateChanges : Prop :=
  (∀ (s : State) (p : Port), s.CanCommand p → s.isControl p = true →
    exec (.pauseCopy p) s = .next ((s.setEngine { s.engine with mode := .paused, requesting := false }).post p 0x38 .ok [])
    ∧ (s.engine.mode ≠ .paused → exec (.resumeCopy p) s = .next (s.post p 0x39 .ok []))
    ∧ (s.engine.mode = .paused → s.engine.queue = [] →
        exec (.resumeCopy p) s =
          .next ((s.setEngine { queue := [], mode := .idle, requesting := false }).post p 0x39 .ok []))
    ∧ ∀ d ds, s.engine.mode = .paused → s.engine.queue = d :: ds →
        exec (.resumeCopy p) s =
          .next ((s.setEngine { queue := { d with state := .active } :: ds, mode := .running, requesting := true }).post
            p 0x39 .ok []))
  ∧ ∀ e : Engine,
    (e.mode = .paused → e.settle = { e with requesting := false })
    ∧ (e.mode ≠ .paused → e.queue = [] → e.settle = { queue := [], mode := .idle, requesting := false })
    ∧ ∀ d ds, e.mode ≠ .paused → e.queue = d :: ds →
        e.settle = { queue := { d with state := .active } :: ds, mode := .running, requesting := true }

/-! ### Messages -/

/-- R128, R129: SEND. Its checks, in order: BAD_ARG, DEST_DOWN, FULL, NO_SLOT; each changes nothing else. An accepted SEND puts
one message at the tail of the destination's receive queue, with the sender's port and session number, the tag and the first
length payload words, and posts OK; nothing else changes. -/
def Obligations.SendDeliversOrIsRefused : Prop :=
  ∀ (s : State) (p : Port), s.CanCommand p →
    ((4 ≤ ((s.arg p 0).extractLsb' 12 4).toNat ∨ 7 < ((s.arg p 0).extractLsb' 8 4).toNat) →
        exec (.send p) s = .next (s.post p 0x40 .badArg []))
      ∧ ∀ d : Port, ((s.arg p 0).extractLsb' 12 4).toNat = d.val → ((s.arg p 0).extractLsb' 8 4).toNat ≤ 7 →
        (s.attached d = false → exec (.send p) s = .next (s.post p 0x40 .destDown []))
        ∧ (s.attached d = true → (s.port d).quota ≤ (s.port d).inbox.length →
            exec (.send p) s = .next (s.post p 0x40 .full []))
        ∧ (s.attached d = true → (s.port d).inbox.length < (s.port d).quota → s.freeSlots = 0 →
            exec (.send p) s = .next (s.post p 0x40 .noSlot []))
        ∧ (s.attached d = true → (s.port d).inbox.length < (s.port d).quota → s.freeSlots ≠ 0 →
            ∃ m : Message, m.source = p ∧ m.session = (s.port p).session ∧ m.tag = (s.arg p 0).extractLsb' 0 8
              ∧ m.payload.length = ((s.arg p 0).extractLsb' 8 4).toNat
              ∧ (∀ (k : Nat) (h : k + 1 < 8), k < m.payload.length → m.payload[k]? = some (s.arg p ⟨k + 1, h⟩))
              ∧ exec (.send p) s = .next ((s.onPort d fun r => { r with inbox := r.inbox ++ [m] }).post p 0x40 .ok []))

/-- R133, R135, Table 10-14: RECEIVE posts EMPTY on an empty queue; otherwise OK with the oldest message whole and the number that
remain, and the message leaves the queue. MSG_STATUS posts OK with the port's queue length, its quota and the free slots.
Nothing else changes. -/
def Obligations.ReceiveAndMsgStatus : Prop :=
  ∀ (s : State) (p : Port), s.CanCommand p →
    ((s.port p).inbox = [] → exec (.receive p) s = .next (s.post p 0x41 .empty []))
      ∧ (∀ m ms, (s.port p).inbox = m :: ms → m.payload.length ≤ 7 → ∃ (w : Word) (ws : List Word),
        exec (.receive p) s = .next ((s.onPort p fun r => { r with inbox := ms }).post p 0x41 .ok ws)
        ∧ ws = w :: m.session.setWidth 16 :: (m.payload ++ List.replicate (7 - m.payload.length) 0)
            ++ [BitVec.ofNat 16 ms.length]
        ∧ w.toNat = m.source.val * 4096 + m.payload.length * 256 + m.tag.toNat)
      ∧ exec (.msgStatus p) s = .next (s.post p 0x42 .ok
        [BitVec.ofNat 16 (s.port p).inbox.length, BitVec.ofNat 16 (s.port p).quota,
         BitVec.ofNat 16 (32 - ((List.finRange 4).map fun q => (s.port q).inbox.length).sum)])

/-! ### Sessions -/

/-- R147, R148, R154: ATTACH of a DETACHED port makes it ATTACHED, advances its session number (255 to 1), sets its PEER_UP bit in
every other ATTACHED port, and posts OK with the number and the control flag; of an ATTACHED port it posts ALREADY_ATTACHED.
Nothing else changes. -/
def Obligations.AttachOpensASession : Prop :=
  ∀ (s : State) (p : Port), (s.port p).busy = false →
    ((s.port p).mode = .attached → exec (.attach p) s = .next (s.post p 0x01 .alreadyAttached []))
      ∧ ((s.port p).mode = .detached → ∃ (n : Byte) (t : State),
          n.toNat = (if (s.port p).session.toNat = 255 then 1 else (s.port p).session.toNat + 1)
          ∧ exec (.attach p) s = .next t
          ∧ t.port p = ({ s.port p with mode := .attached, session := n } : PortState).posted 0x01 .ok
              [n.setWidth 16, if s.isControl p then 1 else 0]
          ∧ (∀ q, q ≠ p → t.port q = if s.attached q then { s.port q with peerUp := (s.port q).peerUp.insert p } else s.port q)
          ∧ (∀ l, t.lock l = s.lock l) ∧ s.SameChip t)

/-- R150, R153, R179: DETACH of an ATTACHED port ends its session at every block and leaves it DETACHED; its AADDR, AMODE and ARG
words, the level of its PRSTn and the last answer of its ADATA cycles are kept, STATUS and RES hold the OK result, and its CMD
cycle is stretched until it is answered, with no other cycle behind it. No other port's STATUS, RES or stretched cycle changes. -/
def Obligations.DetachEndsTheSession : Prop :=
  ∀ (s : State) (p : Port), s.CanCommand p → ∃ t, exec (.detach p) s = .next t ∧ s.SessionEnded t p .detached
    ∧ (t.port p).aaddr = (s.port p).aaddr ∧ (t.port p).amode = (s.port p).amode ∧ (t.port p).args = (s.port p).args
    ∧ (t.port p).status = statusWord .ok 0x02 ∧ (∀ i : Fin 10, (t.port p).res[i] = 0)
    ∧ (t.port p).command = some .posted ∧ (t.port p).request = none ∧ (t.port p).held = []
    ∧ (t.port p).cycleEnded = (s.port p).cycleEnded ∧ (t.port p).answer = (s.port p).answer
    ∧ (t.port p).prstAsserted = (s.port p).prstAsserted
    ∧ ∀ q, q ≠ p → (t.port q).status = (s.port q).status ∧ (t.port q).res = (s.port q).res
        ∧ (t.port q).command = (s.port q).command

/-- R151, R153, R179: EVICT by the control port posts BAD_ARG for a target of 4 or more or itself, and TARGET_DOWN for a target that
is not ATTACHED, with no other change; otherwise it ends the target's session at every block and leaves it DETACHED, with its
AADDR, AMODE, ARG, STATUS and RES words, the level of its PRSTn and the whole state of its bus kept (its waiting access, its
stretched command, its held cycles and their early end, the last answer), and posts OK at the control port alone, whose CMD cycle
is stretched until it is answered. -/
def Obligations.EvictEndsAnotherSession : Prop :=
  ∀ (s : State) (c : Port), s.CanCommand c → s.isControl c = true →
    ((3 < (s.arg c 0).toNat ∨ (s.arg c 0).toNat = c.val) → exec (.evict c) s = .next (s.post c 0x03 .badArg []))
      ∧ ∀ p : Port, p ≠ c → (s.arg c 0).toNat = p.val →
        (s.attached p = false → exec (.evict c) s = .next (s.post c 0x03 .targetDown []))
        ∧ (s.attached p = true → ∃ t, exec (.evict c) s = .next t ∧ s.SessionEnded t p .detached
            ∧ (t.port p).aaddr = (s.port p).aaddr ∧ (t.port p).amode = (s.port p).amode
            ∧ (t.port p).args = (s.port p).args ∧ (t.port p).request = (s.port p).request
            ∧ (t.port p).prstAsserted = (s.port p).prstAsserted ∧ (t.port p).held = (s.port p).held
            ∧ (t.port p).cycleEnded = (s.port p).cycleEnded ∧ (t.port p).answer = (s.port p).answer
            ∧ (t.port c).status = statusWord .ok 0x03 ∧ (∀ i : Fin 10, (t.port c).res[i] = 0)
            ∧ (t.port c).command = some .posted
            ∧ ∀ q, q ≠ c → (t.port q).status = (s.port q).status ∧ (t.port q).res = (s.port q).res
                ∧ (t.port q).command = (s.port q).command)

/-- R145, R146, R94, R179: PRSTn asserted at a port that is not DOWN makes it DOWN, with its port-local words reset, its waiting
access, stretched command and held cycles withdrawn and its session number, quota and serial counter kept; an ATTACHED port's
session ends at every block. Of a DETACHED port nothing else changes: its own sets, fault record, receive queue and completion
list, and the rest of the part. Of a DOWN port nothing changes but the level of the pin. PRSTn negated makes a DOWN port
DETACHED unless RESETn is asserted. That the record of the last ADATA answer becomes none is the model's choice (log entry 13,
DESIGN CHOICE); that PRSTn asserted at a DOWN port, or negated where it was not asserted, changes the recorded level of the pin
alone is read from the spec by inference (log entry 11, DEDUCED). -/
def Obligations.PortResetAndItsEnd : Prop :=
  ∀ (s : State) (p : Port),
    (∃ t, exec (.prstnAsserted p) s = .next t ∧ (t.port p).mode = .down ∧ (t.port p).prstAsserted = true
        ∧ (t.port p).session = (s.port p).session ∧ (t.port p).quota = (s.port p).quota
        ∧ (t.port p).serial = (s.port p).serial ∧ t.mem = s.mem ∧ t.position = s.position ∧ t.control = s.control
        ∧ ((s.port p).mode ≠ .down →
            (t.port p).status = 0 ∧ (∀ i : Fin 8, (t.port p).args[i] = 0) ∧ (∀ i : Fin 10, (t.port p).res[i] = 0)
              ∧ (t.port p).aaddr = 0 ∧ (t.port p).amode = .hold ∧ (t.port p).enables = 0 ∧ (t.port p).request = none
              ∧ (t.port p).held = [] ∧ (t.port p).command = none ∧ (t.port p).cycleEnded = false
              ∧ (t.port p).answer = .none)
        ∧ ((s.port p).mode = .attached → s.SessionEnded t p .down
            ∧ ∀ q, q ≠ p → (t.port q).status = (s.port q).status ∧ (t.port q).res = (s.port q).res
                ∧ (t.port q).command = (s.port q).command)
        ∧ ((s.port p).mode = .detached →
            (t.port p).granted = (s.port p).granted ∧ (t.port p).revoked = (s.port p).revoked
              ∧ (t.port p).waitEnd = (s.port p).waitEnd ∧ (t.port p).peerUp = (s.port p).peerUp
              ∧ (t.port p).peerDown = (s.port p).peerDown ∧ (t.port p).fault = (s.port p).fault
              ∧ (t.port p).inbox = (s.port p).inbox ∧ (t.port p).completions = (s.port p).completions)
        ∧ ((s.port p).mode = .down → t.port p = { s.port p with prstAsserted := true })
        ∧ ((s.port p).mode ≠ .attached → (∀ l, t.lock l = s.lock l) ∧ s.SameOtherPorts t p ∧ s.SameChip t))
    ∧ ∃ t, exec (.prstnNegated p) s = .next t ∧ s.SameOtherPorts t p ∧ (∀ l, t.lock l = s.lock l) ∧ s.SameChip t
        ∧ t.port p = { s.port p with
            prstAsserted := false
            mode := if (s.port p).mode = .down ∧ s.resetAsserted = false then .detached else (s.port p).mode }

/-! ### Events -/

/-- R161, R162, R164, Tables 10-1 and 10-5: EVSUM, at offset 13H, reads the pending classes of the port, each by its condition, and NTFn is asserted exactly
while the port is ATTACHED and a pending class is enabled. -/
def Obligations.EvsumAndNtfnFollowTheClasses : Prop :=
  ∀ (s : State) (p : Port),
    (s.Ready p → ∃ w : Word, s.readWord p (.plain .evsum) = some w ∧ s.readWord p (WindowWord.at 0x13) = some w
      ∧ w.getLsbD 0 = decide ((s.port p).granted ≠ 0) ∧ w.getLsbD 1 = decide ((s.port p).revoked ≠ 0)
      ∧ w.getLsbD 2 = decide ((s.port p).waitEnd ≠ 0) ∧ w.getLsbD 3 = decide ((s.port p).inbox ≠ [])
      ∧ w.getLsbD 4 = decide ((s.port p).completions ≠ []) ∧ w.getLsbD 5 = (s.port p).fault.isSome
      ∧ w.getLsbD 6 = decide ((s.port p).peerUp ≠ 0 ∨ (s.port p).peerDown ≠ 0) ∧ w.extractLsb' 7 9 = 0)
    ∧ (s.ntfAsserted p = true ↔ (s.port p).mode = .attached ∧ ∃ i : Fin 7,
        (s.port p).classPending (EventClass.at i) = true ∧ (s.port p).enables.getLsbD i.val = true)

/-- R166, R168: TAKE_LOCK_EVENTS returns the three lock sets, L0 to L15 first, and empties them; TAKE_PEER_EVENTS returns the two peer
sets and the attached set and empties the peer sets. Nothing else changes. -/
def Obligations.TakesReturnAndEmptyTheSets : Prop :=
  ∀ (s : State) (p : Port), s.CanCommand p →
    exec (.takeLockEvents p) s =
      .next ((s.onPort p fun r => { r with granted := 0, revoked := 0, waitEnd := 0 }).post p 0x50 .ok
        [(s.port p).granted.extractLsb' 0 16, (s.port p).granted.extractLsb' 16 16,
         (s.port p).revoked.extractLsb' 0 16, (s.port p).revoked.extractLsb' 16 16,
         (s.port p).waitEnd.extractLsb' 0 16, (s.port p).waitEnd.extractLsb' 16 16])
    ∧ ∃ a : PortSet, (∀ q, a.has q = s.attached q)
      ∧ exec (.takePeerEvents p) s =
          .next ((s.onPort p fun r => { r with peerUp := 0, peerDown := 0 }).post p 0x51 .ok
            [(s.port p).peerUp.setWidth 16, (s.port p).peerDown.setWidth 16, a.setWidth 16])

/-- R174, R177: POOL_STATUS changes nothing at any block. Taken, it reads the free waiter entries, with four values left to read and
its cycle stretched. Each of the four, the free message slots, the free copy slots, the engine state and D, is read as its block
then stands, whatever has happened in between, an end of the port's session included. With none left the command ends: OK and the
five values are posted, and only then do STATUS and RES change. The order of the four reads, that a step on an empty queue makes
one, and that the start of the port's next cycle shows those left to have been made, are the model's choice (log entry 6). -/
def Obligations.PoolStatusReports : Prop :=
  ∀ (s : State) (p : Port),
    (s.CanCommand p →
      exec (.poolStatus p) s = .next (s.onPort p fun r =>
        { r with
          command := some (.reading [BitVec.ofNat 16 (32 - s.entriesInUse)]
            [.messageSlots, .copySlots, .engineState, .tickDivider]) }))
    ∧ s.poolValue .messageSlots = BitVec.ofNat 16 (32 - s.slotsInUse)
    ∧ s.poolValue .copySlots = BitVec.ofNat 16 (8 - s.engine.queue.length)
    ∧ s.poolValue .engineState = (match s.engine.mode with
        | .idle => 0
        | .running => 1
        | .paused => 2)
    ∧ s.poolValue .tickDivider = s.divider.setWidth 16
    ∧ ∀ done left, (s.port p).command = some (.reading done left) →
      (s.pending = [] → s.readyCycle = some p →
        (∀ v vs, left = v :: vs →
          step s = .next (s.onPort p fun r => { r with command := some (.reading (done ++ [s.poolValue v]) vs) }))
        ∧ (left = [] → step s = .next (s.post p 0x60 .ok done)))
      ∧ ((s.port p).request = none → (s.port p).held = [] → (s.port p).cycleEnded = false → (s.port p).mode ≠ .down →
        ∀ c : Instr, c.port? = some p → c.wellFormed = true →
          exec c s = exec c ((s.post p 0x60 .ok (done ++ left.map s.poolValue)).onPort p fun r =>
            { r with command := none }))

/-! ### The bus as its agent sees it -/

/-- R156, R162, R176, R178, R181, Tables 9-3, 10-1 and 10-4: what the agent of a port sees of its bus. PnRDY is not driven while
the port is DOWN, low while a cycle is stretched or held, high otherwise; a posted command leaves it low until the cycle is
answered. A read of a word of the register window by a port with no unanswered cycle returns the word, at each of its 32 offsets
but that of ADATA, a read of which is the access ADATA_READ; EVSUM reads the pending classes, EVEN_SET, EVEN_CLR and the reserved
offsets 0000H, AMODE its code, PSTAT the control port, the control flag, the port state and the session number.
No word is read at a DOWN port or while a cycle is unanswered. The early end of an unanswered cycle marks it as ended and changes
nothing else; with no unanswered cycle there is none to end, and nothing changes (log entry 9, DEDUCED). -/
def Obligations.ReadsRdyAndTheEarlyEnd : Prop :=
  ∀ (s : State) (p : Port),
    ((s.port p).mode = .down → s.rdy p = none ∧ ∀ o, s.readWord p (WindowWord.at o) = none)
    ∧ ((s.port p).mode ≠ .down → (s.port p).busy = true →
        s.rdy p = some false ∧ ∀ o, s.readWord p (WindowWord.at o) = none)
    ∧ ((s.port p).mode ≠ .down → ∀ code r ws, (s.post p code r ws).rdy p = some false)
    ∧ (s.Ready p →
        s.rdy p = some true
        ∧ s.readWord p (WindowWord.at 0x00) = some (s.port p).status
        ∧ (∀ i : Fin 8, s.readWord p (WindowWord.at (Fin.ofNat 32 (0x01 + i.val))) = some (s.port p).args[i])
        ∧ (∀ i : Fin 10, s.readWord p (WindowWord.at (Fin.ofNat 32 (0x09 + i.val))) = some (s.port p).res[i])
        ∧ s.readWord p (WindowWord.at 0x13) = some ((s.port p).pendingClasses.setWidth 16)
        ∧ s.readWord p (WindowWord.at 0x14) = some ((s.port p).enables.setWidth 16)
        ∧ s.readWord p (WindowWord.at 0x15) = some 0 ∧ s.readWord p (WindowWord.at 0x16) = some 0
        ∧ s.readWord p (WindowWord.at 0x17) = some (s.port p).aaddr
        ∧ WindowWord.at 0x18 = .adata ∧ s.readWord p .adata = none
        ∧ s.readWord p (WindowWord.at 0x19) = some (match (s.port p).amode with
            | .hold => 0
            | .step => 1
            | .wrap => 2)
        ∧ (∀ i : Fin 5, s.readWord p (WindowWord.at (Fin.ofNat 32 (0x1B + i.val))) = some 0)
        ∧ ∃ w : Word, s.readWord p (WindowWord.at 0x1A) = some w
          ∧ w.extractLsb' 12 4 = 0 ∧ (∀ c, s.control = some c → (w.extractLsb' 10 2).toNat = c.val)
          ∧ w.getLsbD 9 = s.isControl p ∧ w.getLsbD 8 = s.attached p ∧ w.extractLsb' 0 8 = (s.port p).session)
    ∧ ((s.port p).busy = true → exec (.cycleEndedEarly p) s = .next (s.onPort p fun r => { r with cycleEnded := true }))
    ∧ ((s.port p).busy = false → exec (.cycleEndedEarly p) s = .next s)
end

