-- ==== Sys2Proof/Laws/State.lean ====
section
/-! SUPPORT. The field lemmas of the state: what each shared update does to each field, so that no proof unfolds a record update. -/

namespace Sys2Proof.Machine

variable (s : State) (p q : Port) (l m : LockNo)

/-! ### mapPorts and onPort -/

@[simp] theorem State.port_mapPorts (f : Port → PortState → PortState) : (s.mapPorts f).port p = f p (s.port p) := by
  simp [State.mapPorts, State.port]

@[simp] theorem State.port_onPort (f : PortState → PortState) :
    (s.onPort q f).port p = if p = q then f (s.port p) else s.port p := by
  simp [State.onPort]

theorem State.port_onPort_self (f : PortState → PortState) : (s.onPort p f).port p = f (s.port p) := by simp

theorem State.port_onPort_of_ne {p q : Port} (h : p ≠ q) (f : PortState → PortState) :
    (s.onPort q f).port p = s.port p := by simp [h]

@[simp] theorem State.resetAsserted_mapPorts (f : Port → PortState → PortState) : (s.mapPorts f).resetAsserted = s.resetAsserted := rfl
@[simp] theorem State.control_mapPorts (f : Port → PortState → PortState) : (s.mapPorts f).control = s.control := rfl
@[simp] theorem State.locks_mapPorts (f : Port → PortState → PortState) : (s.mapPorts f).locks = s.locks := rfl
@[simp] theorem State.divider_mapPorts (f : Port → PortState → PortState) : (s.mapPorts f).divider = s.divider := rfl
@[simp] theorem State.count_mapPorts (f : Port → PortState → PortState) : (s.mapPorts f).count = s.count := rfl
@[simp] theorem State.windows_mapPorts (f : Port → PortState → PortState) : (s.mapPorts f).windows = s.windows := rfl
@[simp] theorem State.defaultRights_mapPorts (f : Port → PortState → PortState) : (s.mapPorts f).defaultRights = s.defaultRights := rfl
@[simp] theorem State.mem_mapPorts (f : Port → PortState → PortState) : (s.mapPorts f).mem = s.mem := rfl
@[simp] theorem State.position_mapPorts (f : Port → PortState → PortState) : (s.mapPorts f).position = s.position := rfl
@[simp] theorem State.engine_mapPorts (f : Port → PortState → PortState) : (s.mapPorts f).engine = s.engine := rfl
@[simp] theorem State.pending_mapPorts (f : Port → PortState → PortState) : (s.mapPorts f).pending = s.pending := rfl

@[simp] theorem State.lock_mapPorts (f : Port → PortState → PortState) : (s.mapPorts f).lock l = s.lock l := rfl
@[simp] theorem State.window_mapPorts (i : WindowNo) (f : Port → PortState → PortState) : (s.mapPorts f).window i = s.window i := rfl
@[simp] theorem State.freeEntries_mapPorts (f : Port → PortState → PortState) : (s.mapPorts f).freeEntries = s.freeEntries := rfl

@[simp] theorem State.resetAsserted_onPort (f : PortState → PortState) : (s.onPort p f).resetAsserted = s.resetAsserted := rfl
@[simp] theorem State.control_onPort (f : PortState → PortState) : (s.onPort p f).control = s.control := rfl
@[simp] theorem State.locks_onPort (f : PortState → PortState) : (s.onPort p f).locks = s.locks := rfl
@[simp] theorem State.divider_onPort (f : PortState → PortState) : (s.onPort p f).divider = s.divider := rfl
@[simp] theorem State.count_onPort (f : PortState → PortState) : (s.onPort p f).count = s.count := rfl
@[simp] theorem State.windows_onPort (f : PortState → PortState) : (s.onPort p f).windows = s.windows := rfl
@[simp] theorem State.defaultRights_onPort (f : PortState → PortState) : (s.onPort p f).defaultRights = s.defaultRights := rfl
@[simp] theorem State.mem_onPort (f : PortState → PortState) : (s.onPort p f).mem = s.mem := rfl
@[simp] theorem State.position_onPort (f : PortState → PortState) : (s.onPort p f).position = s.position := rfl
@[simp] theorem State.engine_onPort (f : PortState → PortState) : (s.onPort p f).engine = s.engine := rfl
@[simp] theorem State.pending_onPort (f : PortState → PortState) : (s.onPort p f).pending = s.pending := rfl

@[simp] theorem State.lock_onPort (f : PortState → PortState) : (s.onPort p f).lock l = s.lock l := rfl
@[simp] theorem State.window_onPort (i : WindowNo) (f : PortState → PortState) : (s.onPort p f).window i = s.window i := rfl
@[simp] theorem State.freeEntries_onPort (f : PortState → PortState) : (s.onPort p f).freeEntries = s.freeEntries := rfl

/-! ### post -/

variable (code : Byte) (res : Result) (ws : List Word)

@[simp] theorem State.port_post :
    (s.post q code res ws).port p =
      if p = q then
        { s.port p with
          status := statusWord res code
          res := Vector.ofFn fun i => ws.getD i.val 0
          command := some .posted }
      else s.port p := by
  simp [State.post]

@[simp] theorem State.resetAsserted_post : (s.post p code res ws).resetAsserted = s.resetAsserted := rfl
@[simp] theorem State.control_post : (s.post p code res ws).control = s.control := rfl
@[simp] theorem State.locks_post : (s.post p code res ws).locks = s.locks := rfl
@[simp] theorem State.divider_post : (s.post p code res ws).divider = s.divider := rfl
@[simp] theorem State.count_post : (s.post p code res ws).count = s.count := rfl
@[simp] theorem State.windows_post : (s.post p code res ws).windows = s.windows := rfl
@[simp] theorem State.defaultRights_post : (s.post p code res ws).defaultRights = s.defaultRights := rfl
@[simp] theorem State.mem_post : (s.post p code res ws).mem = s.mem := rfl
@[simp] theorem State.position_post : (s.post p code res ws).position = s.position := rfl
@[simp] theorem State.engine_post : (s.post p code res ws).engine = s.engine := rfl
@[simp] theorem State.pending_post : (s.post p code res ws).pending = s.pending := rfl

@[simp] theorem State.lock_post : (s.post p code res ws).lock l = s.lock l := rfl
@[simp] theorem State.window_post (i : WindowNo) : (s.post p code res ws).window i = s.window i := rfl
@[simp] theorem State.freeEntries_post : (s.post p code res ws).freeEntries = s.freeEntries := rfl

@[simp] theorem State.post_port_mode : ((s.post q code res ws).port p).mode = (s.port p).mode := by
  rw [State.port_post]
  split <;> rfl

@[simp] theorem State.post_port_session : ((s.post q code res ws).port p).session = (s.port p).session := by
  rw [State.port_post]
  split <;> rfl

@[simp] theorem State.post_port_prstAsserted : ((s.post q code res ws).port p).prstAsserted = (s.port p).prstAsserted := by
  rw [State.port_post]
  split <;> rfl

@[simp] theorem State.post_port_args : ((s.post q code res ws).port p).args = (s.port p).args := by
  rw [State.port_post]
  split <;> rfl

@[simp] theorem State.post_port_aaddr : ((s.post q code res ws).port p).aaddr = (s.port p).aaddr := by
  rw [State.port_post]
  split <;> rfl

@[simp] theorem State.post_port_amode : ((s.post q code res ws).port p).amode = (s.port p).amode := by
  rw [State.port_post]
  split <;> rfl

@[simp] theorem State.post_port_fault : ((s.post q code res ws).port p).fault = (s.port p).fault := by
  rw [State.port_post]
  split <;> rfl

@[simp] theorem State.post_port_request : ((s.post q code res ws).port p).request = (s.port p).request := by
  rw [State.port_post]
  split <;> rfl

@[simp] theorem State.post_port_command :
    ((s.post q code res ws).port p).command = if p = q then some .posted else (s.port p).command := by
  rw [State.port_post]
  split <;> rfl

@[simp] theorem State.post_port_cycleEnded : ((s.post q code res ws).port p).cycleEnded = (s.port p).cycleEnded := by
  rw [State.port_post]
  split <;> rfl

@[simp] theorem State.post_port_held : ((s.post q code res ws).port p).held = (s.port p).held := by
  rw [State.port_post]
  split <;> rfl

@[simp] theorem State.post_port_answer : ((s.post q code res ws).port p).answer = (s.port p).answer := by
  rw [State.port_post]
  split <;> rfl

@[simp] theorem State.post_port_granted : ((s.post q code res ws).port p).granted = (s.port p).granted := by
  rw [State.port_post]
  split <;> rfl

@[simp] theorem State.post_port_revoked : ((s.post q code res ws).port p).revoked = (s.port p).revoked := by
  rw [State.port_post]
  split <;> rfl

@[simp] theorem State.post_port_waitEnd : ((s.post q code res ws).port p).waitEnd = (s.port p).waitEnd := by
  rw [State.port_post]
  split <;> rfl

@[simp] theorem State.post_port_peerUp : ((s.post q code res ws).port p).peerUp = (s.port p).peerUp := by
  rw [State.port_post]
  split <;> rfl

@[simp] theorem State.post_port_peerDown : ((s.post q code res ws).port p).peerDown = (s.port p).peerDown := by
  rw [State.port_post]
  split <;> rfl

@[simp] theorem State.post_port_enables : ((s.post q code res ws).port p).enables = (s.port p).enables := by
  rw [State.port_post]
  split <;> rfl

@[simp] theorem State.post_port_quota : ((s.post q code res ws).port p).quota = (s.port p).quota := by
  rw [State.port_post]
  split <;> rfl

@[simp] theorem State.post_port_inbox : ((s.post q code res ws).port p).inbox = (s.port p).inbox := by
  rw [State.port_post]
  split <;> rfl

@[simp] theorem State.post_port_serial : ((s.post q code res ws).port p).serial = (s.port p).serial := by
  rw [State.port_post]
  split <;> rfl

@[simp] theorem State.post_port_completions : ((s.post q code res ws).port p).completions = (s.port p).completions := by
  rw [State.port_post]
  split <;> rfl

/-! ### setHeld -/

variable (held : List Instr) (ended : Bool)

@[simp] theorem State.port_setHeld : (s.setHeld q held ended).port p =
    if p = q then { s.port p with held := held, cycleEnded := ended } else s.port p := by
  simp [State.setHeld]

@[simp] theorem State.resetAsserted_setHeld : (s.setHeld p held ended).resetAsserted = s.resetAsserted := rfl
@[simp] theorem State.control_setHeld : (s.setHeld p held ended).control = s.control := rfl
@[simp] theorem State.locks_setHeld : (s.setHeld p held ended).locks = s.locks := rfl
@[simp] theorem State.divider_setHeld : (s.setHeld p held ended).divider = s.divider := rfl
@[simp] theorem State.count_setHeld : (s.setHeld p held ended).count = s.count := rfl
@[simp] theorem State.windows_setHeld : (s.setHeld p held ended).windows = s.windows := rfl
@[simp] theorem State.defaultRights_setHeld : (s.setHeld p held ended).defaultRights = s.defaultRights := rfl
@[simp] theorem State.mem_setHeld : (s.setHeld p held ended).mem = s.mem := rfl
@[simp] theorem State.position_setHeld : (s.setHeld p held ended).position = s.position := rfl
@[simp] theorem State.engine_setHeld : (s.setHeld p held ended).engine = s.engine := rfl
@[simp] theorem State.pending_setHeld : (s.setHeld p held ended).pending = s.pending := rfl
@[simp] theorem State.lock_setHeld : (s.setHeld p held ended).lock l = s.lock l := rfl
@[simp] theorem State.window_setHeld (i : WindowNo) : (s.setHeld p held ended).window i = s.window i := rfl

/-! ### Lock-table events -/

variable (f : LockNo → LockRec → LockChange) (g : LockRec → LockChange)

@[simp] theorem State.lock_lockEvent : (s.lockEvent f).lock l = (f l (s.lock l)).record := by
  simp [State.lockEvent, State.lock]

theorem State.port_lockEvent :
    (s.lockEvent f).port p = (s.port p).addLockBits
      (LockSet.of fun l => (f l (s.lock l)).granted.has p)
      (LockSet.of fun l => (f l (s.lock l)).revoked.has p)
      (LockSet.of fun l => (f l (s.lock l)).waitEnd.has p) := by
  simp [State.lockEvent, State.port]

@[simp] theorem State.lock_onLock :
    (s.onLock l g).lock m = if m = l then (g (s.lock m)).record else s.lock m := by
  simp only [State.onLock, State.lock_lockEvent]
  split <;> rfl

@[simp] theorem State.resetAsserted_lockEvent : (s.lockEvent f).resetAsserted = s.resetAsserted := rfl
@[simp] theorem State.control_lockEvent : (s.lockEvent f).control = s.control := rfl
@[simp] theorem State.divider_lockEvent : (s.lockEvent f).divider = s.divider := rfl
@[simp] theorem State.count_lockEvent : (s.lockEvent f).count = s.count := rfl
@[simp] theorem State.windows_lockEvent : (s.lockEvent f).windows = s.windows := rfl
@[simp] theorem State.defaultRights_lockEvent : (s.lockEvent f).defaultRights = s.defaultRights := rfl
@[simp] theorem State.mem_lockEvent : (s.lockEvent f).mem = s.mem := rfl
@[simp] theorem State.position_lockEvent : (s.lockEvent f).position = s.position := rfl
@[simp] theorem State.engine_lockEvent : (s.lockEvent f).engine = s.engine := rfl
@[simp] theorem State.pending_lockEvent : (s.lockEvent f).pending = s.pending := rfl

@[simp] theorem State.resetAsserted_onLock : (s.onLock l g).resetAsserted = s.resetAsserted := rfl
@[simp] theorem State.control_onLock : (s.onLock l g).control = s.control := rfl
@[simp] theorem State.divider_onLock : (s.onLock l g).divider = s.divider := rfl
@[simp] theorem State.count_onLock : (s.onLock l g).count = s.count := rfl
@[simp] theorem State.windows_onLock : (s.onLock l g).windows = s.windows := rfl
@[simp] theorem State.defaultRights_onLock : (s.onLock l g).defaultRights = s.defaultRights := rfl
@[simp] theorem State.mem_onLock : (s.onLock l g).mem = s.mem := rfl
@[simp] theorem State.position_onLock : (s.onLock l g).position = s.position := rfl
@[simp] theorem State.engine_onLock : (s.onLock l g).engine = s.engine := rfl
@[simp] theorem State.pending_onLock : (s.onLock l g).pending = s.pending := rfl

@[simp] theorem State.window_lockEvent (i : WindowNo) : (s.lockEvent f).window i = s.window i := rfl
@[simp] theorem State.window_onLock (i : WindowNo) : (s.onLock l g).window i = s.window i := rfl

@[simp] theorem PortState.mode_addLockBits (r : PortState) (a b c : LockSet) : (r.addLockBits a b c).mode = r.mode := by
  unfold PortState.addLockBits
  split <;> rfl

@[simp] theorem State.lockEvent_port_mode : ((s.lockEvent f).port p).mode = (s.port p).mode := by
  simp [State.port_lockEvent]

@[simp] theorem State.onLock_port_mode : ((s.onLock l g).port p).mode = (s.port p).mode := by
  simp [State.onLock]

@[simp] theorem PortState.session_addLockBits (r : PortState) (a b c : LockSet) : (r.addLockBits a b c).session = r.session := by
  unfold PortState.addLockBits
  split <;> rfl

@[simp] theorem State.lockEvent_port_session : ((s.lockEvent f).port p).session = (s.port p).session := by
  simp [State.port_lockEvent]

@[simp] theorem State.onLock_port_session : ((s.onLock l g).port p).session = (s.port p).session := by
  simp [State.onLock]

@[simp] theorem PortState.prstAsserted_addLockBits (r : PortState) (a b c : LockSet) : (r.addLockBits a b c).prstAsserted = r.prstAsserted := by
  unfold PortState.addLockBits
  split <;> rfl

@[simp] theorem State.lockEvent_port_prstAsserted : ((s.lockEvent f).port p).prstAsserted = (s.port p).prstAsserted := by
  simp [State.port_lockEvent]

@[simp] theorem State.onLock_port_prstAsserted : ((s.onLock l g).port p).prstAsserted = (s.port p).prstAsserted := by
  simp [State.onLock]

@[simp] theorem PortState.status_addLockBits (r : PortState) (a b c : LockSet) : (r.addLockBits a b c).status = r.status := by
  unfold PortState.addLockBits
  split <;> rfl

@[simp] theorem State.lockEvent_port_status : ((s.lockEvent f).port p).status = (s.port p).status := by
  simp [State.port_lockEvent]

@[simp] theorem State.onLock_port_status : ((s.onLock l g).port p).status = (s.port p).status := by
  simp [State.onLock]

@[simp] theorem PortState.args_addLockBits (r : PortState) (a b c : LockSet) : (r.addLockBits a b c).args = r.args := by
  unfold PortState.addLockBits
  split <;> rfl

@[simp] theorem State.lockEvent_port_args : ((s.lockEvent f).port p).args = (s.port p).args := by
  simp [State.port_lockEvent]

@[simp] theorem State.onLock_port_args : ((s.onLock l g).port p).args = (s.port p).args := by
  simp [State.onLock]

@[simp] theorem PortState.res_addLockBits (r : PortState) (a b c : LockSet) : (r.addLockBits a b c).res = r.res := by
  unfold PortState.addLockBits
  split <;> rfl

@[simp] theorem State.lockEvent_port_res : ((s.lockEvent f).port p).res = (s.port p).res := by
  simp [State.port_lockEvent]

@[simp] theorem State.onLock_port_res : ((s.onLock l g).port p).res = (s.port p).res := by
  simp [State.onLock]

@[simp] theorem PortState.aaddr_addLockBits (r : PortState) (a b c : LockSet) : (r.addLockBits a b c).aaddr = r.aaddr := by
  unfold PortState.addLockBits
  split <;> rfl

@[simp] theorem State.lockEvent_port_aaddr : ((s.lockEvent f).port p).aaddr = (s.port p).aaddr := by
  simp [State.port_lockEvent]

@[simp] theorem State.onLock_port_aaddr : ((s.onLock l g).port p).aaddr = (s.port p).aaddr := by
  simp [State.onLock]

@[simp] theorem PortState.amode_addLockBits (r : PortState) (a b c : LockSet) : (r.addLockBits a b c).amode = r.amode := by
  unfold PortState.addLockBits
  split <;> rfl

@[simp] theorem State.lockEvent_port_amode : ((s.lockEvent f).port p).amode = (s.port p).amode := by
  simp [State.port_lockEvent]

@[simp] theorem State.onLock_port_amode : ((s.onLock l g).port p).amode = (s.port p).amode := by
  simp [State.onLock]

@[simp] theorem PortState.fault_addLockBits (r : PortState) (a b c : LockSet) : (r.addLockBits a b c).fault = r.fault := by
  unfold PortState.addLockBits
  split <;> rfl

@[simp] theorem State.lockEvent_port_fault : ((s.lockEvent f).port p).fault = (s.port p).fault := by
  simp [State.port_lockEvent]

@[simp] theorem State.onLock_port_fault : ((s.onLock l g).port p).fault = (s.port p).fault := by
  simp [State.onLock]

@[simp] theorem PortState.request_addLockBits (r : PortState) (a b c : LockSet) : (r.addLockBits a b c).request = r.request := by
  unfold PortState.addLockBits
  split <;> rfl

@[simp] theorem State.lockEvent_port_request : ((s.lockEvent f).port p).request = (s.port p).request := by
  simp [State.port_lockEvent]

@[simp] theorem State.onLock_port_request : ((s.onLock l g).port p).request = (s.port p).request := by
  simp [State.onLock]

@[simp] theorem PortState.command_addLockBits (r : PortState) (a b c : LockSet) : (r.addLockBits a b c).command = r.command := by
  unfold PortState.addLockBits
  split <;> rfl

@[simp] theorem State.lockEvent_port_command : ((s.lockEvent f).port p).command = (s.port p).command := by
  simp [State.port_lockEvent]

@[simp] theorem State.onLock_port_command : ((s.onLock l g).port p).command = (s.port p).command := by
  simp [State.onLock]

@[simp] theorem PortState.cycleEnded_addLockBits (r : PortState) (a b c : LockSet) : (r.addLockBits a b c).cycleEnded = r.cycleEnded := by
  unfold PortState.addLockBits
  split <;> rfl

@[simp] theorem State.lockEvent_port_cycleEnded : ((s.lockEvent f).port p).cycleEnded = (s.port p).cycleEnded := by
  simp [State.port_lockEvent]

@[simp] theorem State.onLock_port_cycleEnded : ((s.onLock l g).port p).cycleEnded = (s.port p).cycleEnded := by
  simp [State.onLock]

@[simp] theorem PortState.held_addLockBits (r : PortState) (a b c : LockSet) : (r.addLockBits a b c).held = r.held := by
  unfold PortState.addLockBits
  split <;> rfl

@[simp] theorem State.lockEvent_port_held : ((s.lockEvent f).port p).held = (s.port p).held := by
  simp [State.port_lockEvent]

@[simp] theorem State.onLock_port_held : ((s.onLock l g).port p).held = (s.port p).held := by
  simp [State.onLock]

@[simp] theorem PortState.answer_addLockBits (r : PortState) (a b c : LockSet) : (r.addLockBits a b c).answer = r.answer := by
  unfold PortState.addLockBits
  split <;> rfl

@[simp] theorem State.lockEvent_port_answer : ((s.lockEvent f).port p).answer = (s.port p).answer := by
  simp [State.port_lockEvent]

@[simp] theorem State.onLock_port_answer : ((s.onLock l g).port p).answer = (s.port p).answer := by
  simp [State.onLock]

@[simp] theorem PortState.peerUp_addLockBits (r : PortState) (a b c : LockSet) : (r.addLockBits a b c).peerUp = r.peerUp := by
  unfold PortState.addLockBits
  split <;> rfl

@[simp] theorem State.lockEvent_port_peerUp : ((s.lockEvent f).port p).peerUp = (s.port p).peerUp := by
  simp [State.port_lockEvent]

@[simp] theorem State.onLock_port_peerUp : ((s.onLock l g).port p).peerUp = (s.port p).peerUp := by
  simp [State.onLock]

@[simp] theorem PortState.peerDown_addLockBits (r : PortState) (a b c : LockSet) : (r.addLockBits a b c).peerDown = r.peerDown := by
  unfold PortState.addLockBits
  split <;> rfl

@[simp] theorem State.lockEvent_port_peerDown : ((s.lockEvent f).port p).peerDown = (s.port p).peerDown := by
  simp [State.port_lockEvent]

@[simp] theorem State.onLock_port_peerDown : ((s.onLock l g).port p).peerDown = (s.port p).peerDown := by
  simp [State.onLock]

@[simp] theorem PortState.enables_addLockBits (r : PortState) (a b c : LockSet) : (r.addLockBits a b c).enables = r.enables := by
  unfold PortState.addLockBits
  split <;> rfl

@[simp] theorem State.lockEvent_port_enables : ((s.lockEvent f).port p).enables = (s.port p).enables := by
  simp [State.port_lockEvent]

@[simp] theorem State.onLock_port_enables : ((s.onLock l g).port p).enables = (s.port p).enables := by
  simp [State.onLock]

@[simp] theorem PortState.quota_addLockBits (r : PortState) (a b c : LockSet) : (r.addLockBits a b c).quota = r.quota := by
  unfold PortState.addLockBits
  split <;> rfl

@[simp] theorem State.lockEvent_port_quota : ((s.lockEvent f).port p).quota = (s.port p).quota := by
  simp [State.port_lockEvent]

@[simp] theorem State.onLock_port_quota : ((s.onLock l g).port p).quota = (s.port p).quota := by
  simp [State.onLock]

@[simp] theorem PortState.inbox_addLockBits (r : PortState) (a b c : LockSet) : (r.addLockBits a b c).inbox = r.inbox := by
  unfold PortState.addLockBits
  split <;> rfl

@[simp] theorem State.lockEvent_port_inbox : ((s.lockEvent f).port p).inbox = (s.port p).inbox := by
  simp [State.port_lockEvent]

@[simp] theorem State.onLock_port_inbox : ((s.onLock l g).port p).inbox = (s.port p).inbox := by
  simp [State.onLock]

@[simp] theorem PortState.serial_addLockBits (r : PortState) (a b c : LockSet) : (r.addLockBits a b c).serial = r.serial := by
  unfold PortState.addLockBits
  split <;> rfl

@[simp] theorem State.lockEvent_port_serial : ((s.lockEvent f).port p).serial = (s.port p).serial := by
  simp [State.port_lockEvent]

@[simp] theorem State.onLock_port_serial : ((s.onLock l g).port p).serial = (s.port p).serial := by
  simp [State.onLock]

@[simp] theorem PortState.completions_addLockBits (r : PortState) (a b c : LockSet) : (r.addLockBits a b c).completions = r.completions := by
  unfold PortState.addLockBits
  split <;> rfl

@[simp] theorem State.lockEvent_port_completions : ((s.lockEvent f).port p).completions = (s.port p).completions := by
  simp [State.port_lockEvent]

@[simp] theorem State.onLock_port_completions : ((s.onLock l g).port p).completions = (s.port p).completions := by
  simp [State.onLock]

/-! ### The engine and the window table -/

variable (e : Engine) (i j : WindowNo) (w : Window)

@[simp] theorem State.port_setEngine : (s.setEngine e).port p = s.port p := rfl
@[simp] theorem State.lock_setEngine : (s.setEngine e).lock l = s.lock l := rfl
@[simp] theorem State.window_setEngine : (s.setEngine e).window i = s.window i := rfl
@[simp] theorem State.engine_setEngine : (s.setEngine e).engine = e := rfl
@[simp] theorem State.resetAsserted_setEngine : (s.setEngine e).resetAsserted = s.resetAsserted := rfl
@[simp] theorem State.control_setEngine : (s.setEngine e).control = s.control := rfl
@[simp] theorem State.locks_setEngine : (s.setEngine e).locks = s.locks := rfl
@[simp] theorem State.divider_setEngine : (s.setEngine e).divider = s.divider := rfl
@[simp] theorem State.count_setEngine : (s.setEngine e).count = s.count := rfl
@[simp] theorem State.windows_setEngine : (s.setEngine e).windows = s.windows := rfl
@[simp] theorem State.defaultRights_setEngine : (s.setEngine e).defaultRights = s.defaultRights := rfl
@[simp] theorem State.mem_setEngine : (s.setEngine e).mem = s.mem := rfl
@[simp] theorem State.position_setEngine : (s.setEngine e).position = s.position := rfl
@[simp] theorem State.pending_setEngine : (s.setEngine e).pending = s.pending := rfl
@[simp] theorem State.ports_setEngine : (s.setEngine e).ports = s.ports := rfl

@[simp] theorem State.window_setWindowRec : (s.setWindowRec i w).window j = if j = i then w else s.window j := by
  simp [State.setWindowRec, State.window]

@[simp] theorem State.port_setWindowRec : (s.setWindowRec i w).port p = s.port p := rfl
@[simp] theorem State.lock_setWindowRec : (s.setWindowRec i w).lock l = s.lock l := rfl
@[simp] theorem State.resetAsserted_setWindowRec : (s.setWindowRec i w).resetAsserted = s.resetAsserted := rfl
@[simp] theorem State.control_setWindowRec : (s.setWindowRec i w).control = s.control := rfl
@[simp] theorem State.locks_setWindowRec : (s.setWindowRec i w).locks = s.locks := rfl
@[simp] theorem State.divider_setWindowRec : (s.setWindowRec i w).divider = s.divider := rfl
@[simp] theorem State.count_setWindowRec : (s.setWindowRec i w).count = s.count := rfl
@[simp] theorem State.defaultRights_setWindowRec : (s.setWindowRec i w).defaultRights = s.defaultRights := rfl
@[simp] theorem State.mem_setWindowRec : (s.setWindowRec i w).mem = s.mem := rfl
@[simp] theorem State.position_setWindowRec : (s.setWindowRec i w).position = s.position := rfl
@[simp] theorem State.engine_setWindowRec : (s.setWindowRec i w).engine = s.engine := rfl
@[simp] theorem State.pending_setWindowRec : (s.setWindowRec i w).pending = s.pending := rfl
@[simp] theorem State.ports_setWindowRec : (s.setWindowRec i w).ports = s.ports := rfl

/-- Two states are equal when every field is, the tables being compared record by record. -/
theorem State.ext_records {a b : State} (h0 : a.resetAsserted = b.resetAsserted) (h1 : a.control = b.control)
    (h2 : ∀ p, a.port p = b.port p) (h3 : ∀ l, a.lock l = b.lock l) (h4 : a.divider = b.divider) (h5 : a.count = b.count)
    (h6 : ∀ i, a.window i = b.window i) (h7 : a.defaultRights = b.defaultRights) (h8 : a.mem = b.mem)
    (h9 : a.position = b.position) (h10 : a.engine = b.engine) (h11 : a.pending = b.pending) : a = b := by
  obtain ⟨_, _, p1, l1, _, _, w1, _, _, _, _, _⟩ := a
  obtain ⟨_, _, p2, l2, _, _, w2, _, _, _, _, _⟩ := b
  have hp : p1 = p2 := Vector.ext fun i h => h2 ⟨i, h⟩
  have hl : l1 = l2 := Vector.ext fun i h => h3 ⟨i, h⟩
  have hw : w1 = w2 := Vector.ext fun i h => h6 ⟨i, h⟩
  simp_all

/-- Changes of one port's record that agree on its record are equal. -/
theorem State.onPort_congr {f g : PortState → PortState} (h : f (s.port p) = g (s.port p)) : s.onPort p f = s.onPort p g := by
  refine State.ext_records rfl rfl (fun q => ?_) (fun _ => rfl) rfl rfl (fun _ => rfl) rfl rfl rfl rfl rfl
  rw [State.port_onPort, State.port_onPort]
  split
  · next hq => rw [hq, h]
  · rfl

/-- Two changes of one port's record, one after the other, are one change. -/
theorem State.onPort_onPort (f g : PortState → PortState) : (s.onPort p f).onPort p g = s.onPort p fun r => g (f r) := by
  refine State.ext_records rfl rfl (fun q => ?_) (fun _ => rfl) rfl rfl (fun _ => rfl) rfl rfl rfl rfl rfl
  simp only [State.port_onPort]
  split <;> rfl

/-- A change that leaves the port's record as it is leaves the state as it is. -/
theorem State.onPort_id {f : PortState → PortState} (h : f (s.port p) = s.port p) : s.onPort p f = s := by
  refine State.ext_records rfl rfl (fun q => ?_) (fun _ => rfl) rfl rfl (fun _ => rfl) rfl rfl rfl rfl rfl
  rw [State.port_onPort]
  split
  · next hq => rw [hq, h]
  · rfl

end Sys2Proof.Machine
end

