-- ==== Sys2Proof/Laws/Sets.lean ====
section
/-! SUPPORT. Port sets and lock sets by membership, and the bits a lock-table event leaves in a port's sets. -/

namespace Sys2Proof

@[simp] theorem PortSet.has_of (f : Port → Bool) (p : Port) : (PortSet.of f).has p = f p := by
  simp [PortSet.has, PortSet.of]

@[simp] theorem LockSet.has_of (f : LockNo → Bool) (l : LockNo) : (LockSet.of f).has l = f l := by
  simp [LockSet.has, LockSet.of]

@[simp] theorem PortSet.has_insert (s : PortSet) (p q : Port) : (s.insert p).has q = (s.has q || q == p) := by
  simp [PortSet.insert]

@[simp] theorem PortSet.has_erase (s : PortSet) (p q : Port) : (s.erase p).has q = (s.has q && q != p) := by
  simp [PortSet.erase]

@[simp] theorem PortSet.has_ofList (l : List Port) (q : Port) : (PortSet.ofList l).has q = l.contains q := by
  simp [PortSet.ofList]

@[simp] theorem PortSet.has_zero (p : Port) : PortSet.has 0#4 p = false := by
  simp [PortSet.has]

@[simp] theorem LockSet.has_zero (l : LockNo) : LockSet.has 0#32 l = false := by
  simp [LockSet.has]

@[simp] theorem LockSet.has_or (a b : LockSet) (l : LockNo) : LockSet.has (a ||| b) l = (a.has l || b.has l) := by
  simp [LockSet.has]

/-- Two port sets with the same members are equal. -/
theorem PortSet.ext_has {a b : PortSet} (h : ∀ p, a.has p = b.has p) : a = b :=
  BitVec.eq_of_getLsbD_eq fun i hi => h ⟨i, hi⟩

/-- Two lock sets with the same members are equal. -/
theorem LockSet.ext_has {a b : LockSet} (h : ∀ l, a.has l = b.has l) : a = b :=
  BitVec.eq_of_getLsbD_eq fun i hi => h ⟨i, hi⟩

/-- A port set is empty exactly when it has no member. -/
theorem PortSet.eq_zero_iff {a : PortSet} : a = 0 ↔ ∀ p, a.has p = false :=
  ⟨fun h p => by rw [h]; exact PortSet.has_zero p, fun h => PortSet.ext_has fun p => (h p).trans (PortSet.has_zero p).symm⟩

namespace Machine

variable (s : State) (p : Port) (l m : LockNo) (f : LockNo → LockRec → LockChange) (g : LockRec → LockChange)

/-- A lock is in a port's GRANTED set after a lock-table event if it was before, or the event handed the bit to the port and
the port is ATTACHED. -/
theorem State.lockEvent_granted_has :
    ((s.lockEvent f).port p).granted.has l =
      ((s.port p).granted.has l || (s.attached p && (f l (s.lock l)).granted.has p)) := by
  rw [State.port_lockEvent, PortState.addLockBits, State.attached]
  split <;> simp_all

theorem State.lockEvent_revoked_has :
    ((s.lockEvent f).port p).revoked.has l =
      ((s.port p).revoked.has l || (s.attached p && (f l (s.lock l)).revoked.has p)) := by
  rw [State.port_lockEvent, PortState.addLockBits, State.attached]
  split <;> simp_all

theorem State.lockEvent_waitEnd_has :
    ((s.lockEvent f).port p).waitEnd.has l =
      ((s.port p).waitEnd.has l || (s.attached p && (f l (s.lock l)).waitEnd.has p)) := by
  rw [State.port_lockEvent, PortState.addLockBits, State.attached]
  split <;> simp_all

theorem State.onLock_granted_has :
    ((s.onLock l g).port p).granted.has m =
      ((s.port p).granted.has m || (s.attached p && (m == l && (g (s.lock l)).granted.has p))) := by
  rw [State.onLock, State.lockEvent_granted_has]
  by_cases h : m = l <;> simp [h]

theorem State.onLock_revoked_has :
    ((s.onLock l g).port p).revoked.has m =
      ((s.port p).revoked.has m || (s.attached p && (m == l && (g (s.lock l)).revoked.has p))) := by
  rw [State.onLock, State.lockEvent_revoked_has]
  by_cases h : m = l <;> simp [h]

theorem State.onLock_waitEnd_has :
    ((s.onLock l g).port p).waitEnd.has m =
      ((s.port p).waitEnd.has m || (s.attached p && (m == l && (g (s.lock l)).waitEnd.has p))) := by
  rw [State.onLock, State.lockEvent_waitEnd_has]
  by_cases h : m = l <;> simp [h]

/-- A lock-table event that hands a port no bit leaves its record as it was. -/
theorem State.port_onLock_of_no_bits (h : ∀ q, (g (s.lock l)).granted.has q = false)
    (h1 : ∀ q, (g (s.lock l)).revoked.has q = false) (h2 : ∀ q, (g (s.lock l)).waitEnd.has q = false) :
    (s.onLock l g).port p = s.port p := by
  have hz : ∀ b : LockRec → LockChange → PortSet, (∀ q, (b (s.lock l) (g (s.lock l))).has q = false) →
      (b = fun _ c => c.granted) ∨ (b = fun _ c => c.revoked) ∨ (b = fun _ c => c.waitEnd) →
      (LockSet.of fun m => (b (s.lock m) (if m = l then g (s.lock m) else { record := s.lock m })).has p) = 0 := by
    intro b hb hc
    apply LockSet.ext_has
    intro m
    by_cases hm : m = l
    · subst hm; simp [hb]
    · rcases hc with rfl | rfl | rfl <;> simp [hm]
  rw [State.onLock, State.port_lockEvent, hz (fun _ c => c.granted) h (.inl rfl),
    hz (fun _ c => c.revoked) h1 (.inr (.inl rfl)), hz (fun _ c => c.waitEnd) h2 (.inr (.inr rfl))]
  unfold PortState.addLockBits
  split <;> simp

end Machine

end Sys2Proof
end

