-- ==== Sys2Proof/Laws/Ops.lean ====
section
/-! SUPPORT. What a command and the posting of its result can do, said once: the lemmas proofs cite instead of unfolding
`State.command` and `State.issue`. -/

namespace Sys2Proof.Machine

variable {s : State} {p : Port} {c : Instr} {cmd : State → Reply} {code : Byte}

theorem State.attached_iff : s.attached p = true ↔ (s.port p).mode = .attached := by simp [State.attached]

/-- A port that can issue a command can take a bus cycle. -/
theorem State.CanCommand.ready (h : s.CanCommand p) : s.Ready p :=
  ⟨by rw [State.attached_iff.mp h.1]; decide, h.2⟩

/-- Everything a command can do once its cycle is taken (R173 steps 2 and 3, R174). -/
theorem State.command_cases :
    (s.attached p = false ∧ s.command p code cmd = s.post p code .notAttached [])
      ∨ (s.attached p = true ∧ s.command p code cmd = s.post p code .notPermitted [])
      ∨ (s.attached p = true ∧ (reservedCode code = true → s.isControl p = true)
          ∧ s.command p code cmd = (cmd s).state.post p code (cmd s).result (cmd s).words) := by
  unfold State.command
  split
  · next h => exact .inl ⟨h, rfl⟩
  · next h =>
    split
    · exact .inr (.inl ⟨by simpa using h, rfl⟩)
    · next hr =>
      refine .inr (.inr ⟨by simpa using h, ?_, rfl⟩)
      intro hc
      simpa [hc] using hr

/-- A command of an ATTACHED port, not reserved or issued by the control port, does its work and posts. -/
theorem State.issue_runs (h : s.attached p = true) (hc : c.code? = some code)
    (hr : reservedCode code = true → s.isControl p = true) :
    s.issue c p cmd = (cmd s).state.post p code (cmd s).result (cmd s).words := by
  unfold State.issue
  rw [hc]
  rcases State.command_cases (s := s) (p := p) (code := code) (cmd := cmd) with ⟨ha, _⟩ | ⟨_, hn⟩ | ⟨_, _, he⟩
  · simp [h] at ha
  · unfold State.command
    cases hk : reservedCode code <;> simp_all
  · simpa using he

/-- A command keeps a law that postings keep, and that its work keeps. -/
theorem State.issue_keeps {P : State → Prop} (hs : P s) (hpost : ∀ t k r ws, P t → P (t.post p k r ws))
    (hwork : s.attached p = true → P (cmd s).state) : P (s.issue c p cmd) := by
  unfold State.issue
  rcases State.command_cases (s := s) (p := p) (code := c.code?.getD 0) (cmd := cmd) with
    ⟨_, h⟩ | ⟨_, h⟩ | ⟨ha, _, h⟩ <;> rw [h]
  · exact hpost _ _ _ _ hs
  · exact hpost _ _ _ _ hs
  · exact hpost _ _ _ _ (hwork ha)

end Sys2Proof.Machine
end

