-- ==== Sys2Proof/Laws/Aperture.lean ====
section
/-! SUPPORT. What the arbiter's choice is and what the service of an access leaves alone: the lemmas proofs cite instead of
unfolding `State.choice` and `State.serveAccess`. -/

namespace Sys2Proof.Machine

variable {s : State} {p : Port} {g r : Requester}

@[simp] theorem Requester.at_place (r : Requester) : Requester.at r.place = r := by
  cases r <;> simp [Requester.place, Requester.at]

@[simp] theorem Requester.place_at (i : Fin 5) : (Requester.at i).place = i := by
  revert i; decide

/-- The position after a grant is one place on (R90). -/
theorem Requester.place_following (r : Requester) : r.following.place = r.place + 1 := Requester.place_at _

/-- The choice is a waiting requester with no waiting requester before it in the rotation (R90). -/
theorem State.choice_first (h : s.choice = some g) :
    s.waits g = true ∧ ∀ r, s.waits r = true → g.place - s.position.place ≤ r.place - s.position.place := by
  refine ⟨List.find?_some h, fun r hr => ?_⟩
  rw [State.choice, List.find?_eq_some_iff_getElem] at h
  obtain ⟨_, i, hi, hg, hb⟩ := h
  have hi5 : i < 5 := by simpa using hi
  simp at hg hb
  rw [← hg, Requester.place_at]
  by_contra hlt
  have hk : (r.place - s.position.place).val < i := by
    have h1 : s.position.place + ⟨i, hi5⟩ - s.position.place = ⟨i, hi5⟩ := by omega
    rw [h1] at hlt
    simpa [Fin.lt_def] using hlt
  have := hb _ hk
  rw [show s.position.place + (⟨(r.place - s.position.place).val, by omega⟩ : Fin 5) = r.place by
    show s.position.place + (r.place - s.position.place) = r.place
    omega, Requester.at_place, hr] at this
  simp at this

/-- There is no choice exactly when nothing waits (R89). -/
theorem State.choice_eq_none_iff : s.choice = none ↔ ∀ r, s.waits r = false := by
  simp only [State.choice, List.find?_eq_none, List.mem_map, List.mem_finRange, true_and, forall_exists_index,
    forall_apply_eq_imp_iff]
  constructor
  · intro h r
    have := h (r.place - s.position.place)
    rw [show s.position.place + (r.place - s.position.place) = r.place by omega, Requester.at_place] at this
    simpa using this
  · intro h k
    simp [h]

/-- A chosen port has a request. -/
theorem State.request_of_choice (h : s.choice = some (.port p)) : ∃ q, (s.port p).request = some q :=
  Option.isSome_iff_exists.mp (State.choice_first h).1

/-- A chosen engine has its request waiting. -/
theorem State.requesting_of_choice (h : s.choice = some .engine) : s.engine.requesting = true := (State.choice_first h).1

/-- The service of an access does not move the position: the grant has moved it (R90). -/
@[simp] theorem State.serveAccess_position {q : AccessRequest} : (s.serveAccess p q).position = s.position := by
  unfold State.serveAccess
  split
  · simp [State.serveNotAttached]
  · split
    · unfold State.servePermitted
      split <;> simp
    · simp [State.serveRefused]

end Sys2Proof.Machine
end

