-- ==== Sys2Proof/Laws/Bus.lean ====
section
/-! SUPPORT. What the bus of a port can do, said once: the lemmas proofs cite instead of unfolding `State.cycle`, `takeHeld`,
`State.answerBus` and `step`. -/

namespace Sys2Proof.Machine

variable {s t : State} {p : Port} {c : Instr} {cmd : State → Reply} {code : Byte} {P : State → Prop}

/-! ### The start of a cycle -/

/-- `exec` of a well-formed bus cycle of port `p` is the start of that cycle. -/
theorem exec_cycle (hp : c.port? = some p) (hw : c.wellFormed = true) : exec c s = .next (s.cycle p c) := by
  cases c <;> simp only [Instr.port?, Option.some.injEq, reduceCtorEq] at hp
  all_goals try subst hp
  all_goals first
    | rfl
    | (simp only [Instr.wellFormed, Bool.not_eq_true'] at hw
       simp [exec, execBadCommand, hw])

/-- A port without an unanswered cycle has nothing to catch up. -/
theorem State.caughtUp_of_free (h : (s.port p).busy = false) : s.caughtUp p = s := by
  simp [State.caughtUp, State.answerBuses, PortState.answerable, h]

/-- A ready port takes its cycle (R171, R178). -/
theorem State.cycle_ready (h : s.Ready p) : s.cycle p c = takeCycle c s := by
  simp [State.cycle, h.1, h.2, State.caughtUp_of_free h.2]

/-- A cycle of a DOWN port has no effect (R141). -/
theorem State.cycle_down (h : (s.port p).mode = .down) : s.cycle p c = s := by
  simp [State.cycle, h]

/-- A cycle behind one that was ended early and is unanswered is held (R176). -/
theorem State.cycle_held (hd : (s.port p).mode ≠ .down) (hb : (s.port p).busy = true) (he : (s.port p).cycleEnded = true) :
    s.cycle p c = s.onPort p (PortState.hold c) := by
  simp [State.cycle, hd, hb, he]

/-- Everything the start of a cycle can do: nothing, be held, or be taken by a port that has answered the cycles before. -/
theorem State.cycle_cases :
    s.cycle p c = s
      ∨ ((s.port p).mode ≠ .down ∧ (s.port p).busy = true ∧ (s.port p).cycleEnded = true
          ∧ s.cycle p c = s.onPort p (PortState.hold c))
      ∨ ((s.port p).mode ≠ .down ∧ ((s.caughtUp p).port p).busy = false ∧ s.cycle p c = takeCycle c (s.caughtUp p)) := by
  unfold State.cycle
  split
  · exact .inl rfl
  · next hd =>
    split
    · next hb => exact .inr (.inl ⟨hd, hb.1, hb.2, rfl⟩)
    · split
      · exact .inl rfl
      · next hb => exact .inr (.inr ⟨hd, by simpa using hb, rfl⟩)

/-- A command of an ATTACHED port on a free bus, not reserved or issued by the control port, does its work and posts. -/
theorem State.cycle_runs (h : s.CanCommand p) (hw : takeCycle c s = s.issue c p cmd) (hc : c.code? = some code)
    (hr : reservedCode code = true → s.isControl p = true) :
    s.cycle p c = (cmd s).state.post p code (cmd s).result (cmd s).words := by
  rw [State.cycle_ready h.ready, hw, State.issue_runs h.1 hc hr]

/-- A command open to every port, of an ATTACHED port on a free bus, does its work and posts. -/
theorem State.cycle_open (h : s.CanCommand p) (hw : takeCycle c s = s.issue c p cmd) (hc : c.code? = some code)
    (hr : reservedCode code = false) : s.cycle p c = (cmd s).state.post p code (cmd s).result (cmd s).words :=
  State.cycle_runs h hw hc (by simp [hr])

/-- A command of the control port does its work and posts, reserved or not. -/
theorem State.cycle_control (h : s.CanCommand p) (hk : s.isControl p = true) (hw : takeCycle c s = s.issue c p cmd)
    (hc : c.code? = some code) : s.cycle p c = (cmd s).state.post p code (cmd s).result (cmd s).words :=
  State.cycle_runs h hw hc fun _ => hk

/-! ### Held cycles and answers -/

/-- A change of a port's record that is the bus's own: of its posted result, its stretched CMD cycle and its held cycles only. -/
def PortState.BusOnly (f : PortState → PortState) : Prop :=
  ∀ r, f r =
    { r with
      status := (f r).status, res := (f r).res, command := (f r).command, cycleEnded := (f r).cycleEnded, held := (f r).held }

/-- A law that the bus's own changes of a port's record keep. -/
def BusBlind (P : State → Prop) : Prop :=
  ∀ (u : State) (q : Port) (f : PortState → PortState), PortState.BusOnly f → P u → P (u.onPort q f)

/-- The first held cycle is taken on the bus; the cycles behind it wait if it is stretched, and are taken in turn if not. -/
theorem takeHeld_cons {rest : List Instr} {ended : Bool} :
    takeHeld p ended (c :: rest) s =
      if ((takeCycle c (s.setHeld p [] (ended || !rest.isEmpty))).port p).stretched = true then
        (takeCycle c (s.setHeld p [] (ended || !rest.isEmpty))).setHeld p rest ended
      else takeHeld p ended rest (takeCycle c (s.setHeld p [] (ended || !rest.isEmpty))) := by
  simp [takeHeld]

theorem State.setHeld_keeps {held : List Instr} {ended : Bool} (hb : BusBlind P) (hs : P s) : P (s.setHeld p held ended) :=
  hb s p (fun r => { r with held := held, cycleEnded := ended }) (fun _ => rfl) hs

theorem State.post_keeps {k : Byte} {r : Result} {ws : List Word} (hb : BusBlind P) (hs : P s) : P (s.post p k r ws) :=
  hb s p
    (fun t =>
      { t with
        status := statusWord r k
        res := Vector.ofFn fun i => ws.getD i.val 0
        command := some .posted })
    (fun _ => rfl) hs

/-- The taking of held cycles keeps a law that is blind to the bus and that each held cycle keeps. -/
theorem takeHeld_keeps (hb : BusBlind P) {held : List Instr} {ended : Bool}
    (hw : ∀ c ∈ held, ∀ u, P u → P (takeCycle c u)) (hs : P s) : P (takeHeld p ended held s) := by
  induction held generalizing s with
  | nil => exact State.setHeld_keeps hb hs
  | cons c rest ih =>
    have h := hw c List.mem_cons_self _ (State.setHeld_keeps (p := p) (held := []) (ended := ended || !rest.isEmpty) hb hs)
    rw [takeHeld_cons]
    split
    · exact State.setHeld_keeps hb h
    · exact ih (fun d hd => hw d (List.mem_cons_of_mem c hd)) h

/-- The end of a command keeps a law that is blind to the bus. -/
theorem State.endCommand_keeps (hb : BusBlind P) (hs : P s) : P (s.endCommand p) := by
  unfold State.endCommand
  split
  · exact State.post_keeps hb hs
  · exact hs
  · exact hs

/-- The answer of a CMD cycle keeps a law that is blind to the bus. -/
theorem State.answerCommand_keeps (hb : BusBlind P) (hs : P s) : P (s.answerCommand p) :=
  hb _ p _ (fun _ => rfl) (State.endCommand_keeps hb hs)

/-- The answer of a port's front cycle keeps a law that is blind to the bus and that every cycle keeps. -/
theorem State.answerBus_keeps (hb : BusBlind P) (hw : ∀ c u, P u → P (takeCycle c u)) (hs : P s) : P (s.answerBus p) :=
  takeHeld_keeps hb (fun c _ => hw c) (State.answerCommand_keeps hb hs)

theorem State.caughtUp_keeps (hb : BusBlind P) (hw : ∀ c u, P u → P (takeCycle c u)) (hs : P s) : P (s.caughtUp p) := by
  unfold State.caughtUp
  generalize (s.port p).held.length + 1 = n
  induction n generalizing s with
  | zero => exact hs
  | succ n ih =>
    unfold State.answerBuses
    split
    · exact ih (State.answerBus_keeps hb hw hs)
    · exact hs

/-- The start of a cycle keeps a law that is blind to the bus and that every cycle keeps. -/
theorem State.cycle_keeps (hb : BusBlind P) (hw : ∀ c u, P u → P (takeCycle c u)) (hs : P s) : P (s.cycle p c) := by
  rcases State.cycle_cases (s := s) (p := p) (c := c) with h | ⟨_, _, _, h⟩ | ⟨_, _, h⟩ <;> rw [h]
  · exact hs
  · exact hb s p _ (fun _ => rfl) hs
  · exact hw c _ (State.caughtUp_keeps hb hw hs)

/-- What a bus does on an empty queue keeps a law that is blind to the bus and that every cycle keeps. -/
theorem State.busStep_keeps (hb : BusBlind P) (hw : ∀ c u, P u → P (takeCycle c u)) (hs : P s) : P (s.busStep p) := by
  unfold State.busStep
  split
  · exact hb s p _ (fun _ => rfl) hs
  · exact State.post_keeps hb hs
  · exact State.answerBus_keeps hb hw hs
  · exact State.answerBus_keeps hb hw hs

/-! ### Steps -/

/-- A step is the command at the front of the queue, run on the state with the queue's rest. -/
theorem step_front {rest : List Instr} (h : s.pending = c :: rest) : step s = exec c { s with pending := rest } := by
  simp [step, h]

/-- Everything a step can do: the front command; on an empty queue what the lowest ready bus does next, or a CLK period. -/
theorem step_cases (h : step s = .next t) :
    (∃ c rest, s.pending = c :: rest ∧ exec c { s with pending := rest } = .next t)
      ∨ (∃ q, s.pending = [] ∧ s.readyCycle = some q ∧ t = s.busStep q)
      ∨ (s.pending = [] ∧ s.readyCycle = none ∧ t = s.clkPeriod) := by
  unfold step at h
  split at h
  · next c rest hp => exact .inl ⟨c, rest, hp, h⟩
  · next hp =>
    unfold State.idleStep at h
    split at h
    · next q hr =>
      cases h
      exact .inr (.inl ⟨q, hp, hr, rfl⟩)
    · next hr =>
      cases h
      exact .inr (.inr ⟨hp, hr, rfl⟩)

end Sys2Proof.Machine
end

