-- ==== Sys2Proof/Laws/Copy.lean ====
section
/-! SUPPORT. The engine's step of Table 5-2 and the parts of a word move: the lemmas proofs cite instead of unfolding
`Engine.settle` and `State.serveWord`. -/

namespace Sys2Proof.Machine

variable {s : State} {e : Engine} {d : Descriptor} {rest : List Descriptor}

theorem Engine.settle_paused (h : e.mode = .paused) : e.settle = { e with requesting := false } := by
  cases e
  subst h
  rfl

theorem Engine.settle_empty (h : e.mode ≠ .paused) (hq : e.queue = []) :
    e.settle = { queue := [], mode := .idle, requesting := false } := by
  cases e with
  | mk q m r => cases m <;> simp_all [Engine.settle]

theorem Engine.settle_cons (h : e.mode ≠ .paused) (hq : e.queue = d :: rest) :
    e.settle = { queue := { d with state := .active } :: rest, mode := .running, requesting := true } := by
  cases e with
  | mk q m r => cases m <;> simp_all [Engine.settle]

/-- The engine's step keeps the number of descriptors. -/
@[simp] theorem Engine.settle_length (e : Engine) : e.settle.queue.length = e.queue.length := by
  cases e with
  | mk q m r => cases m <;> cases q <;> rfl

/-- The engine's step keeps every descriptor but for the state of the head. -/
theorem Engine.settle_map {α : Type} (f : Descriptor → α) (h : ∀ d, f { d with state := .active } = f d) (e : Engine) :
    e.settle.queue.map f = e.queue.map f := by
  cases e with
  | mk q m r => cases m <;> cases q <;> simp [Engine.settle, h]

/-- A descriptor that joins the tail of a lawful engine's queue (R104). -/
theorem Engine.settle_append (h : e.Lawful) (hd : d.state = .queued) :
    ({ e with queue := e.queue ++ [d] } : Engine).settle =
      { queue := e.queue ++ [{ d with state := if e.mode = .idle then .active else .queued }]
        mode := if e.mode = .idle then .running else e.mode
        requesting := decide (e.mode ≠ .paused) } := by
  obtain ⟨_, _, hl, hrq⟩ := h
  cases d
  cases e with
  | mk q m r =>
    simp only at hd
    subst hd
    cases m with
    | idle => cases q <;> simp_all [Engine.queueLaw, Engine.settle]
    | running =>
      cases q with
      | nil => simp_all [Engine.queueLaw]
      | cons x xs =>
        cases x
        simp_all [Engine.queueLaw, Engine.settle]
    | paused => simp_all [Engine.settle]

/-- A word move does not move the position: the grant has moved it (R90). -/
@[simp] theorem State.serveWord_position : (s.serveWord d rest).position = s.position := by
  unfold State.serveWord
  split
  · rfl
  · split <;> rfl

/-- A word move changes no lock. -/
@[simp] theorem State.serveWord_lock (l : LockNo) : (s.serveWord d rest).lock l = s.lock l := by
  unfold State.serveWord
  split
  · rfl
  · split <;> rfl

/-- A word move changes no window. -/
@[simp] theorem State.serveWord_window (i : WindowNo) : (s.serveWord d rest).window i = s.window i := by
  unfold State.serveWord
  split
  · rfl
  · split <;> rfl

end Sys2Proof.Machine
end

