-- ==== Sys2Proof/Laws/Locks.lean ====
section
/-! SUPPORT. The operations on one lock record: what re-evaluation can do (R13, R14), and that each operation leaves a lawful
record. -/

namespace Sys2Proof.Machine

variable {r : LockRec}

/-- A lock record's laws but for the law on the head of the queue, which re-evaluation restores (R4). -/
abbrev LockRec.Unsettled (r : LockRec) : Prop :=
  r.ModeLaw ∧ (r.queue.map Waiter.port).Nodup ∧ (∀ e ∈ r.queue, r.heldBy e.port = false) ∧ r.leaseLaw = true
    ∧ ∀ e ∈ r.queue, e.waitLaw = true

theorem LockRec.Lawful.unsettled (h : r.Lawful) : r.Unsettled := ⟨h.1, h.2.1.1, h.2.1.2.1, h.2.2.1, h.2.2.2⟩

/-- A grant keeps the lease length and leaves the lease as R10 says. -/
theorem LockRec.leaseLaw_grant (h : r.leaseLaw = true) (m : ReqMode) (ps : List Port) :
    (r.grant m ps).leaseLaw = true := by
  unfold LockRec.leaseLaw LockRec.grant LockRec.loaded at *
  cases m <;> cases hm : r.mode <;> cases hl : r.leaseLeft <;> by_cases h0 : r.leaseLength = 0 <;>
    simp_all [ReqMode.lockMode] <;> omega

theorem LockRec.heldBy_grant (m : ReqMode) (ps : List Port) (p : Port) :
    (r.grant m ps).heldBy p = (r.heldBy p || ps.contains p) := by
  simp [LockRec.heldBy, LockRec.grant]

theorem PortSet.of_zero_or (l : List Port) (a : PortSet) (h : a = 0) :
    (PortSet.of fun q => a.has q || l.contains q) = PortSet.ofList l := by
  apply PortSet.ext_has
  intro q
  rw [h]
  simp

/-- What re-evaluation does on each lock it can find (R13, R14). -/
theorem LockRec.reevaluate_cases (r : LockRec) :
    (r.reevaluate = { record := r } ∧ (r.queue = [] ∨ r.mode = .exclusive
        ∨ (r.mode = .shared ∧ ∃ e rest, r.queue = e :: rest ∧ e.mode = .exclusive)))
      ∨ (∃ e rest, r.queue = e :: rest ∧ e.mode = .exclusive ∧ r.mode = .free
          ∧ r.reevaluate = { record := { r.grant .exclusive [e.port] with queue := rest }, granted := PortSet.ofList [e.port] })
      ∨ ((∃ e rest, r.queue = e :: rest ∧ e.mode = .shared) ∧ r.mode ≠ .exclusive
          ∧ r.reevaluate =
            { record := { r.grant .shared ((sharedBatch r.queue).map Waiter.port) with queue := afterBatch r.queue },
              granted := PortSet.ofList ((sharedBatch r.queue).map Waiter.port) }) := by
  unfold LockRec.reevaluate
  cases hq : r.queue with
  | nil => exact .inl ⟨rfl, .inl rfl⟩
  | cons e rest =>
    cases he : e.mode <;> cases hm : r.mode <;> simp [he]

theorem LockRec.queue_eq_batch (q : List Waiter) : sharedBatch q ++ afterBatch q = q :=
  List.takeWhile_append_dropWhile

/-- The entry behind the SHARED head batch is EXCLUSIVE (R13). -/
theorem LockRec.head_afterBatch {q : List Waiter} {e : Waiter} {rest : List Waiter} (h : afterBatch q = e :: rest) :
    e.mode = .exclusive := by
  have hd := List.head?_dropWhile_not (fun e : Waiter => e.mode == .shared) q
  unfold afterBatch at h
  rw [h] at hd
  cases hm : e.mode <;> simp_all

/-- Re-evaluation of an unsettled record leaves a lawful one (R4, R13). -/
theorem LockRec.reevaluate_lawful (h : r.Unsettled) : r.reevaluate.record.Lawful := by
  obtain ⟨⟨hf, hx, hd⟩, hn, hh, hl, hw⟩ := h
  rcases LockRec.reevaluate_cases r with ⟨he, hc⟩ | ⟨e, rest, hq, hem, hm, he⟩ | ⟨⟨e, rest, hq, hem⟩, hm, he⟩
  · rw [he]
    refine ⟨⟨hf, hx, hd⟩, ⟨hn, hh, ?_⟩, hl, hw⟩
    unfold LockRec.headLaw
    rcases hc with hc | hc | ⟨hc, e, rest, hq, hem⟩
    · simp [hc]
    · simp only [hc]
      split <;> simp
    · simp [hc, hq, hem]
  · rw [he]
    have hz : r.holders = 0 := hf.mp hm
    have henable : r.enabled = true := by
      cases hen : r.enabled with
      | true => rfl
      | false => exact absurd (hd hen).2 (by simp [hq])
    have hn' : e.port ∉ rest.map Waiter.port ∧ (rest.map Waiter.port).Nodup := by simpa [hq] using hn
    refine ⟨⟨⟨?_, ?_⟩, fun _ => ⟨e.port, ?_⟩, ?_⟩, ⟨hn'.2, ?_, ?_⟩, LockRec.leaseLaw_grant hl .exclusive [e.port], ?_⟩
    · simp [LockRec.grant, ReqMode.lockMode]
    · intro h0
      have := PortSet.eq_zero_iff.mp h0 e.port
      simp [LockRec.grant] at this
    · exact PortSet.of_zero_or _ _ hz
    · intro hen
      simp [LockRec.grant, henable] at hen
    · intro x hx'
      have hne : x.port ≠ e.port := by
        intro hxe
        exact hn'.1 (hxe ▸ List.mem_map_of_mem hx')
      have : (r.grant .exclusive [e.port]).heldBy x.port = false := by
        rw [LockRec.heldBy_grant, hh x (by rw [hq]; exact List.mem_cons_of_mem _ hx')]
        simp [hne]
      exact this
    · unfold LockRec.headLaw
      simp only [LockRec.grant, ReqMode.lockMode]
      split <;> simp
    · intro x hx'
      exact hw x (by rw [hq]; exact List.mem_cons_of_mem _ hx')
  · rw [he]
    have henable : r.enabled = true := by
      cases hen : r.enabled with
      | true => rfl
      | false => exact absurd (hd hen).2 (by simp [hq])
    have hsplit := LockRec.queue_eq_batch r.queue
    have hmem : ∀ x ∈ afterBatch r.queue, x ∈ r.queue := by
      intro x hx'
      rw [← hsplit]
      exact List.mem_append_right _ hx'
    have hnd : ((sharedBatch r.queue).map Waiter.port ++ (afterBatch r.queue).map Waiter.port).Nodup := by
      rw [← List.map_append, hsplit]
      exact hn
    have hhead : e.port ∈ (sharedBatch r.queue).map Waiter.port := by
      rw [hq]
      simp [sharedBatch, hem]
    refine ⟨⟨⟨?_, ?_⟩, ?_, ?_⟩, ⟨(List.nodup_append.mp hnd).2.1, ?_, ?_⟩, LockRec.leaseLaw_grant hl .shared ((sharedBatch r.queue).map Waiter.port), ?_⟩
    · simp [LockRec.grant, ReqMode.lockMode]
    · intro h0
      have := PortSet.eq_zero_iff.mp h0 e.port
      simp only [LockRec.grant, PortSet.has_of, Bool.or_eq_false_iff, List.contains_eq_mem,
        decide_eq_false_iff_not] at this
      exact absurd hhead this.2
    · simp [LockRec.grant, ReqMode.lockMode]
    · intro hen
      simp [LockRec.grant, henable] at hen
    · intro x hx'
      have hne : x.port ∉ (sharedBatch r.queue).map Waiter.port := fun hb =>
        (List.nodup_append.mp hnd).2.2 _ hb _ (List.mem_map_of_mem hx') rfl
      have : (r.grant .shared ((sharedBatch r.queue).map Waiter.port)).heldBy x.port = false := by
        rw [LockRec.heldBy_grant, hh x (hmem x hx'), List.contains_eq_mem]
        simpa using hne
      exact this
    · unfold LockRec.headLaw
      simp only [LockRec.grant, ReqMode.lockMode]
      cases ha : afterBatch r.queue with
      | nil => rfl
      | cons x xs => simp [LockRec.head_afterBatch ha]
    · intro x hx'
      exact hw x (hmem x hx')

/-- Re-evaluation makes no queue longer (R14). -/
theorem LockRec.reevaluate_queue_le (r : LockRec) : r.reevaluate.record.queue.length ≤ r.queue.length := by
  rcases LockRec.reevaluate_cases r with ⟨he, _⟩ | ⟨e, rest, hq, _, _, he⟩ | ⟨_, _, he⟩ <;> rw [he]
  · simp [hq]
  · exact List.Sublist.length_le (List.dropWhile_sublist _)

/-- After re-evaluation the queue holds entries of the old queue, and a holder was a holder or had an entry (R14). -/
theorem LockRec.reevaluate_members (r : LockRec) :
    (∀ e ∈ r.reevaluate.record.queue, e ∈ r.queue)
      ∧ ∀ p, r.reevaluate.record.heldBy p = true → r.heldBy p = true ∨ ∃ e ∈ r.queue, e.port = p := by
  rcases LockRec.reevaluate_cases r with ⟨he, _⟩ | ⟨e, rest, hq, _, _, he⟩ | ⟨_, _, he⟩ <;> rw [he]
  · exact ⟨fun _ h => h, fun _ h => .inl h⟩
  · refine ⟨fun x hx => hq ▸ List.mem_cons_of_mem _ hx, fun p hp => ?_⟩
    have hp' : (r.grant .exclusive [e.port]).heldBy p = true := hp
    rw [LockRec.heldBy_grant, Bool.or_eq_true] at hp'
    rcases hp' with h | h
    · exact .inl h
    · exact .inr ⟨e, by simp [hq], by simpa using (Eq.symm (by simpa using h))⟩
  · refine ⟨fun x hx => (List.dropWhile_sublist _).subset hx, fun p hp => ?_⟩
    have hp' : (r.grant .shared ((sharedBatch r.queue).map Waiter.port)).heldBy p = true := hp
    rw [LockRec.heldBy_grant, Bool.or_eq_true, List.contains_eq_mem, decide_eq_true_eq] at hp'
    rcases hp' with h | h
    · exact .inl h
    · obtain ⟨x, hx, rfl⟩ := List.mem_map.mp h
      exact .inr ⟨x, (List.takeWhile_sublist _).subset hx, rfl⟩

/-! ### A lock command's event and posting -/

variable {s : State} {p : Port} {l : LockNo} {g : LockRec → LockChange} {code : Byte} {res : Result} {ws : List Word}

/-- What an event on one lock leaves of a port's record, beside the port's GRANTED, REVOKED and WAITEND sets. -/
theorem State.noLockBits_onLock (q : Port) : ((s.onLock l g).port q).noLockBits = (s.port q).noLockBits := by
  rw [State.onLock, State.port_lockEvent, PortState.addLockBits]
  split <;> rfl

/-- Everything an event on one lock does, with the posting of the command's result: the lock's record, the bits it hands out
(R29), the issuing port's posted words, and nothing else. -/
theorem State.onLock_post_spec :
    ((s.onLock l g).post p code res ws).lock l = (g (s.lock l)).record
      ∧ s.LockBitsAdded ((s.onLock l g).post p code res ws) l (g (s.lock l)).granted (g (s.lock l)).revoked
          (g (s.lock l)).waitEnd
      ∧ (((s.onLock l g).post p code res ws).port p).noLockBits = ((s.port p).posted code res ws).noLockBits
      ∧ (∀ q, q ≠ p → (((s.onLock l g).post p code res ws).port q).noLockBits = (s.port q).noLockBits)
      ∧ s.SameOtherLocks ((s.onLock l g).post p code res ws) l ∧ s.SameChip ((s.onLock l g).post p code res ws) := by
  refine ⟨by simp, fun q k => ?_, ?_, fun q hq => ?_, fun k hk => by simp [hk], by simp [State.SameChip]⟩
  · simp only [State.post_port_granted, State.post_port_revoked, State.post_port_waitEnd, State.onLock_granted_has,
      State.onLock_revoked_has, State.onLock_waitEnd_has, and_self]
  · rw [State.port_post, if_pos rfl]
    have := State.noLockBits_onLock (s := s) (l := l) (g := g) p
    simp only [PortState.noLockBits, PortState.mk.injEq] at this ⊢
    simp [this]
  · rw [State.port_post, if_neg hq]
    exact State.noLockBits_onLock q

/-- The same where the event hands out no bit: every other port's record is as before. -/
theorem State.onLock_post_quiet (h : ∀ q, (g (s.lock l)).granted.has q = false)
    (h1 : ∀ q, (g (s.lock l)).revoked.has q = false) (h2 : ∀ q, (g (s.lock l)).waitEnd.has q = false) :
    ((s.onLock l g).post p code res ws).port p = (s.port p).posted code res ws
      ∧ s.SameOtherPorts ((s.onLock l g).post p code res ws) p := by
  refine ⟨?_, fun q hq => ?_⟩
  · rw [State.port_post, if_pos rfl, State.port_onLock_of_no_bits s p l g h h1 h2]
  · rw [State.port_post, if_neg hq, State.port_onLock_of_no_bits s q l g h h1 h2]

/-- Re-evaluation revokes no one and ends no wait (R13, R29). -/
@[simp] theorem LockRec.reevaluate_revoked (r : LockRec) : r.reevaluate.revoked = 0 := by
  rcases LockRec.reevaluate_cases r with ⟨he, _⟩ | ⟨e, rest, hq, _, _, he⟩ | ⟨_, _, he⟩ <;> rw [he]

@[simp] theorem LockRec.reevaluate_waitEnd (r : LockRec) : r.reevaluate.waitEnd = 0 := by
  rcases LockRec.reevaluate_cases r with ⟨he, _⟩ | ⟨e, rest, hq, _, _, he⟩ | ⟨_, _, he⟩ <;> rw [he]

/-- Re-evaluation of a lawful record finds nothing to grant (R4, R13). -/
theorem LockRec.reevaluate_of_lawful (h : r.Lawful) : r.reevaluate = { record := r } := by
  have hd := h.2.1.2.2
  rcases LockRec.reevaluate_cases r with ⟨he, _⟩ | ⟨e, rest, hq, _, hm, _⟩ | ⟨⟨e, rest, hq, he⟩, hm, _⟩
  · exact he
  · simp [LockRec.headLaw, hq, hm] at hd
  · cases hmode : r.mode <;> simp_all [LockRec.headLaw]

/-- Everything an event on one lock does: the lock's record, the bits it hands out (R29), and nothing else. -/
theorem State.onLock_spec :
    (s.onLock l g).lock l = (g (s.lock l)).record
      ∧ s.LockBitsAdded (s.onLock l g) l (g (s.lock l)).granted (g (s.lock l)).revoked (g (s.lock l)).waitEnd
      ∧ (∀ q, ((s.onLock l g).port q).noLockBits = (s.port q).noLockBits)
      ∧ s.SameOtherLocks (s.onLock l g) l ∧ s.SameChip (s.onLock l g) := by
  refine ⟨by simp, fun q k => ?_, fun q => State.noLockBits_onLock q, fun k hk => by simp [hk], by simp [State.SameChip]⟩
  simp only [State.onLock_granted_has, State.onLock_revoked_has, State.onLock_waitEnd_has, and_self]

/-- An event that changes nothing on its lock and hands out no bit changes nothing. -/
theorem State.onLock_id (h : g (s.lock l) = { record := s.lock l }) : s.onLock l g = s := by
  apply State.ext_records <;> try rfl
  · exact fun q => State.port_onLock_of_no_bits s q l g (by simp [h]) (by simp [h]) (by simp [h])
  · intro k
    rw [State.lock_onLock]
    split
    · next e => subst e; rw [h]
    · rfl
  · exact fun _ => rfl

/-- A lawful entry expires at the next count exactly when one tick is left (R3, R38). -/
theorem Waiter.expiring_of_law {e : Waiter} (h : e.waitLaw = true) : e.expiring = (e.wait == some 1) := by
  unfold Waiter.waitLaw at h
  unfold Waiter.expiring
  cases hw : e.wait with
  | none => rfl
  | some n =>
    simp only [hw, Bool.and_eq_true, decide_eq_true_eq] at h
    have h1 : n ≤ 1 ↔ n = 1 := by omega
    by_cases hn : n = 1 <;> simp [h1, hn]

/-- A lawful lease ends at the next count exactly when one tick is left (R10, R41). -/
theorem LockRec.leaseEnds_of_law (h : r.leaseLaw = true) : r.leaseEnds = decide (r.leaseLeft = some 1) := by
  unfold LockRec.leaseLaw at h
  unfold LockRec.leaseEnds
  cases hw : r.leaseLeft with
  | none => rfl
  | some n =>
    simp only [hw, Bool.and_eq_true, decide_eq_true_eq] at h
    have h1 : n ≤ 1 ↔ n = 1 := by omega
    by_cases hn : n = 1 <;> simp [h1, hn]

/-- A lawful waiter queue holds at most three entries (R4). -/
theorem LockRec.Lawful.queue_length_le (h : r.Lawful) : r.queue.length ≤ 3 := by
  cases hq : r.queue with
  | nil => simp
  | cons e rest =>
    obtain ⟨⟨hf, _, _⟩, ⟨hn, hh, hd⟩, _, _⟩ := h
    have hne : r.holders ≠ 0 := by
      intro h0
      have := hf.mpr h0
      simp [LockRec.headLaw, hq, this] at hd
    obtain ⟨p, hp⟩ : ∃ p, r.heldBy p = true := by
      by_contra hc
      simp only [not_exists, Bool.not_eq_true] at hc
      exact hne (PortSet.eq_zero_iff.mpr hc)
    have hnd : (p :: r.queue.map Waiter.port).Nodup := by
      rw [List.nodup_cons]
      refine ⟨?_, hn⟩
      intro hmem
      obtain ⟨x, hx, rfl⟩ := List.mem_map.mp hmem
      rw [hh x hx] at hp
      simp at hp
    have := hnd.length_le_card
    simp at this
    rw [← hq]
    omega

end Sys2Proof.Machine
end

