-- ==== Sys2Proof/Laws/Sessions.lean ====
section
/-! SUPPORT. What a session end does at every block, said once: the lemma proofs about DETACH, EVICT and port reset cite instead of
unfolding `State.endSession`. -/

namespace Sys2Proof.Machine

variable (s : State) (p q : Port) (m : PortMode) (r : LockRec)

/-- A session end takes the port's hold and entry from the lock (R27, R28). -/
theorem LockRec.endSession_gone :
    (r.endSession p).record.heldBy p = false ∧ (r.endSession p).record.queuedBy p = false := by
  have key : ∀ d : LockRec, d.heldBy p = false → d.queuedBy p = false →
      d.reevaluate.record.heldBy p = false ∧ d.reevaluate.record.queuedBy p = false := by
    intro d h1 h2
    obtain ⟨hq, hh⟩ := d.reevaluate_members
    have h2' : ∀ e ∈ d.queue, e.port ≠ p := by simpa [LockRec.queuedBy] using h2
    refine ⟨?_, ?_⟩
    · cases hx : d.reevaluate.record.heldBy p with
      | false => rfl
      | true =>
        rcases hh p hx with h | ⟨e, he, hp⟩
        · exact absurd h (by simp [h1])
        · exact absurd hp (h2' e he)
    · simpa [LockRec.queuedBy] using fun e he => h2' e (hq e he)
  have hw : (r.dropWaiter p).queuedBy p = false := by simp [LockRec.queuedBy, LockRec.dropWaiter]
  unfold LockRec.endSession
  split
  · apply key
    · unfold LockRec.dropHolder
      split <;> simp [LockRec.heldBy]
    · unfold LockRec.dropHolder
      split <;> exact hw
  · next h =>
    split
    · exact key _ (by simpa [LockRec.dropWaiter, LockRec.heldBy] using h) hw
    · next h2 => exact ⟨by simpa using h, by simpa using h2⟩

@[simp] theorem LockRec.endSession_revoked : (r.endSession p).revoked = 0 := by
  unfold LockRec.endSession
  repeat' split
  all_goals simp

@[simp] theorem LockRec.endSession_waitEnd : (r.endSession p).waitEnd = 0 := by
  unfold LockRec.endSession
  repeat' split
  all_goals simp

/-- The port's own record after its session end. -/
theorem State.endSession_port_self (hm : m ≠ .attached) : (s.endSession p m).port p = (s.port p).endSession m := by
  simp [State.endSession, State.announceDown, State.port_lockEvent, PortState.addLockBits, PortState.endSession, hm]

/-- Another port's record after a session end: GRANTED bits from the re-evaluations and the PEER_DOWN bit (R28, R154). -/
theorem State.endSession_port_other (h : q ≠ p) : (s.endSession p m).port q =
    if (s.port q).mode = .attached then
      { s.port q with
        granted := (s.port q).granted ||| LockSet.of fun l => ((s.lock l).endSession p).granted.has q
        peerDown := (s.port q).peerDown.insert p }
    else s.port q := by
  have hz : (LockSet.of fun _ => false) = 0 := LockSet.ext_has fun l => by simp
  simp only [State.endSession, State.announceDown, State.port_mapPorts, State.port_setEngine, State.port_lockEvent,
    State.port_onPort, State.lock_onPort, PortState.addLockBits]
  by_cases ha : (s.port q).mode = .attached
  · simp [h, ha, hz]
  · simp [h, ha]

/-- A lock record after a session end. -/
theorem State.endSession_lock (l : LockNo) : (s.endSession p m).lock l = ((s.lock l).endSession p).record := by
  simp [State.endSession, State.announceDown]

/-- Everything a session end does (R153, Table 7-2). -/
theorem State.endSession_spec (hm : m ≠ .attached) : s.SessionEnded (s.endSession p m) p m := by
  have hp := s.endSession_port_self p m hm
  refine ⟨by rw [hp]; rfl, by rw [hp]; simp [PortState.Bare, PortState.endSession], by rw [hp]; rfl, by rw [hp]; rfl,
    by rw [hp]; rfl, fun l => ?_, rfl, fun q hq => ?_, rfl, fun _ => rfl, rfl, rfl, rfl, rfl, rfl, rfl, rfl⟩
  · rw [State.endSession_lock]
    refine ⟨((s.lock l).endSession_gone p).1, ((s.lock l).endSession_gone p).2, _, _, rfl, rfl, ?_, ?_, ?_⟩
    · intro h1 h2
      simp [LockRec.endSession, h1, h2]
    · intro h
      unfold LockRec.endSession LockRec.dropHolder LockRec.dropWaiter
      cases h1 : (s.lock l).heldBy p <;> cases h2 : (s.lock l).queuedBy p <;> simp_all
    · intro q hq
      rw [State.endSession_port_other _ _ _ _ hq]
      by_cases ha : (s.port q).mode = .attached
      · simp only [ha, State.attached, LockSet.has_or, LockSet.has_of, if_true]
        unfold LockRec.endSession LockRec.dropHolder LockRec.dropWaiter
        cases h1 : (s.lock l).heldBy p <;> cases h2 : (s.lock l).queuedBy p <;> simp_all
      · simp [ha, State.attached]
  · rw [State.endSession_port_other _ _ _ _ hq]
    by_cases ha : (s.port q).mode = .attached <;> simp [ha, State.attached]

variable {s p m} in
/-- The posting of a result after a session end keeps all that the session end did. -/
theorem State.SessionEnded.post {t : State} {c : Port} {code : Byte} {res : Result} {ws : List Word}
    (h : s.SessionEnded t p m) : s.SessionEnded (t.post c code res ws) p m := by
  obtain ⟨h1, h2, h3, h4, h5, h6, h7, h8, h9⟩ := h
  refine ⟨?_, ?_, ?_, ?_, ?_, fun l => ?_, h7, fun q hq => ?_, h9⟩
  · rw [State.post_port_mode, h1]
  · simp only [PortState.Bare, State.post_port_granted, State.post_port_revoked, State.post_port_waitEnd,
      State.post_port_peerUp, State.post_port_peerDown, State.post_port_enables, State.post_port_fault,
      State.post_port_inbox, State.post_port_completions]
    exact h2
  · rw [State.post_port_session, h3]
  · rw [State.post_port_quota, h4]
  · rw [State.post_port_serial, h5]
  · simp only [State.post_port_granted]
    exact h6 l
  · rw [State.port_post]
    split
    · exact h8 q hq
    · exact h8 q hq

end Sys2Proof.Machine
end

