-- ==== Sys2Proof/Laws/Cycles.lean ====
section
/-! SUPPORT. What the taking of a bus cycle leaves alone, said once for all cycles, and how a bus catches up: the lemmas proofs cite
instead of going through the cycles one by one. -/

namespace Sys2Proof.Machine

variable {s t u : State} {p q : Port} {c : Instr}

/-- What no bus cycle of port `p` but one of ADATA changes when it is taken: the memory, the arbiter's position, the queue, the
reset and strap levels, every port's request, held cycles and early end, and the other ports' stretched CMD cycles; and it
brings no port DOWN. -/
structure State.CycleFrame (s t : State) (p : Port) : Prop where
  mem : t.mem = s.mem
  position : t.position = s.position
  pending : t.pending = s.pending
  control : t.control = s.control
  reset : t.resetAsserted = s.resetAsserted
  held : ∀ q, (t.port q).held = (s.port q).held
  cycleEnded : ∀ q, (t.port q).cycleEnded = (s.port q).cycleEnded
  down : ∀ q, (t.port q).mode = .down → (s.port q).mode = .down
  request : ∀ q, (t.port q).request = (s.port q).request
  command : ∀ q, q ≠ p → (t.port q).command = (s.port q).command

/-! ### The operations -/

theorem State.CycleFrame.refl (s : State) (p : Port) : s.CycleFrame s p :=
  ⟨rfl, rfl, rfl, rfl, rfl, fun _ => rfl, fun _ => rfl, fun _ => id, fun _ => rfl, fun _ _ => rfl⟩

theorem State.CycleFrame.trans (h : s.CycleFrame t p) (k : t.CycleFrame u p) : s.CycleFrame u p :=
  ⟨k.mem.trans h.mem, k.position.trans h.position, k.pending.trans h.pending, k.control.trans h.control,
    k.reset.trans h.reset, fun q => (k.held q).trans (h.held q), fun q => (k.cycleEnded q).trans (h.cycleEnded q),
    fun q hd => h.down q (k.down q hd), fun q => (k.request q).trans (h.request q),
    fun q hq => (k.command q hq).trans (h.command q hq)⟩

/-- A posting. -/
theorem State.CycleFrame.post {code : Byte} {r : Result} {ws : List Word} (h : s.CycleFrame t p) :
    s.CycleFrame (t.post p code r ws) p :=
  h.trans ⟨rfl, rfl, rfl, rfl, rfl, fun _ => State.post_port_held .., fun _ => State.post_port_cycleEnded ..,
    fun _ => by rw [State.post_port_mode]; exact id, fun _ => State.post_port_request ..,
    fun q hq => by rw [State.post_port_command, if_neg hq]⟩

/-- A change of port records that leaves the bus alone. -/
theorem State.CycleFrame.mapPorts {f : Port → PortState → PortState}
    (hf : ∀ q r, (f q r).held = r.held ∧ (f q r).cycleEnded = r.cycleEnded ∧ ((f q r).mode = .down → r.mode = .down)
      ∧ (f q r).request = r.request ∧ (q ≠ p → (f q r).command = r.command)) : s.CycleFrame (s.mapPorts f) p :=
  ⟨rfl, rfl, rfl, rfl, rfl, fun q => by simp [(hf q _).1], fun q => by simp [(hf q _).2.1],
    fun q h => (hf q _).2.2.1 (by simpa using h), fun q => by simp [(hf q _).2.2.2.1],
    fun q hq => by simp [(hf q _).2.2.2.2 hq]⟩

theorem State.CycleFrame.onPort {f : PortState → PortState}
    (hf : ∀ r, (f r).held = r.held ∧ (f r).cycleEnded = r.cycleEnded ∧ ((f r).mode = .down → r.mode = .down)
      ∧ (f r).request = r.request ∧ (q ≠ p → (f r).command = r.command)) : s.CycleFrame (s.onPort q f) p :=
  State.CycleFrame.mapPorts fun k r => by
    by_cases h : k = q
    · rw [if_pos h]; rw [h]; exact hf r
    · rw [if_neg h]; exact ⟨rfl, rfl, id, rfl, fun _ => rfl⟩

theorem State.CycleFrame.lockEvent {f : LockNo → LockRec → LockChange} : s.CycleFrame (s.lockEvent f) p :=
  ⟨rfl, rfl, rfl, rfl, rfl, fun _ => by simp, fun _ => by simp, fun _ => by simp, fun _ => by simp, fun _ _ => by simp⟩

theorem State.CycleFrame.setEngine {e : Engine} : s.CycleFrame (s.setEngine e) p :=
  ⟨rfl, rfl, rfl, rfl, rfl, fun _ => rfl, fun _ => rfl, fun _ => id, fun _ => rfl, fun _ _ => rfl⟩

/-- A change of something else than the ports. -/
theorem State.CycleFrame.ofPorts (h1 : t.mem = s.mem) (h2 : t.position = s.position) (h3 : t.pending = s.pending)
    (h4 : t.control = s.control) (h5 : t.resetAsserted = s.resetAsserted) (h : ∀ q, t.port q = s.port q) :
    s.CycleFrame t p :=
  ⟨h1, h2, h3, h4, h5, fun q => by rw [h q], fun q => by rw [h q], fun q => by rw [h q]; exact id, fun q => by rw [h q],
    fun q _ => by rw [h q]⟩

theorem State.CycleFrame.setWindowRec {i : WindowNo} {w : Window} : s.CycleFrame (s.setWindowRec i w) p :=
  State.CycleFrame.ofPorts (s.mem_setWindowRec i w) (s.position_setWindowRec i w) (s.pending_setWindowRec i w)
    (s.control_setWindowRec i w) (s.resetAsserted_setWindowRec i w) fun q => s.port_setWindowRec q i w

theorem State.CycleFrame.announceUp : s.CycleFrame (s.announceUp q) p :=
  State.CycleFrame.mapPorts fun k r => by
    by_cases h : k ≠ q ∧ r.mode = .attached
    · rw [if_pos h]; exact ⟨rfl, rfl, id, rfl, fun _ => rfl⟩
    · rw [if_neg h]; exact ⟨rfl, rfl, id, rfl, fun _ => rfl⟩

theorem State.CycleFrame.onLock {l : LockNo} {f : LockRec → LockChange} : s.CycleFrame (s.onLock l f) p :=
  State.CycleFrame.lockEvent

theorem State.CycleFrame.endSession (h : (s.port q).mode ≠ .down) : s.CycleFrame (s.endSession q .detached) p := by
  refine ⟨rfl, rfl, rfl, rfl, rfl, ?_, ?_, ?_, ?_, ?_⟩ <;> intro k <;> by_cases hk : k = q
  all_goals first
    | (subst hk; rw [State.endSession_port_self _ _ _ (by decide)]; simp [PortState.endSession, h])
    | (rw [State.endSession_port_other _ _ _ _ hk]; split <;> simp_all)

/-! ### The work of each command -/

theorem State.CycleFrame.withLock {k : LockNo → Reply} (hk : ∀ l, s.CycleFrame (k l).state p) :
    s.CycleFrame (s.withLock q k).state p := by
  unfold State.withLock
  split
  · exact .refl s p
  · exact hk _

theorem State.CycleFrame.attach : s.CycleFrame (s.attach p) p := by
  unfold State.attach
  split
  · exact (State.CycleFrame.refl s p).post
  · refine State.CycleFrame.post (State.CycleFrame.trans ?_ State.CycleFrame.announceUp)
    exact State.CycleFrame.onPort fun r => ⟨rfl, rfl, fun h => PortMode.noConfusion h, rfl, fun _ => rfl⟩

theorem acquireWork_frame : s.CycleFrame (acquireWork p s).state p := by
  refine State.CycleFrame.withLock fun l => ?_
  unfold State.decideAcquire
  repeat' split
  all_goals with_reducible first | exact .refl s p | exact .onLock

theorem releaseWork_frame : s.CycleFrame (releaseWork p s).state p := by
  refine State.CycleFrame.withLock fun l => ?_
  split
  all_goals with_reducible first | exact .refl s p | exact .onLock

theorem renewWork_frame : s.CycleFrame (renewWork p s).state p := by
  refine State.CycleFrame.withLock fun l => ?_
  split
  all_goals with_reducible first | exact .refl s p | exact .onLock

theorem withdrawWork_frame : s.CycleFrame (withdrawWork p s).state p := by
  refine State.CycleFrame.withLock fun l => ?_
  split
  all_goals with_reducible first | exact .refl s p | exact .onLock

theorem setLockWork_frame : s.CycleFrame (setLockWork p s).state p := by
  refine State.CycleFrame.withLock fun l => ?_
  repeat' split
  all_goals with_reducible first | exact .refl s p | exact .onLock

theorem breakWork_frame : s.CycleFrame (breakWork p s).state p := by
  refine State.CycleFrame.withLock fun l => ?_
  split
  all_goals with_reducible first | exact .refl s p | exact .onLock

theorem setTickWork_frame : s.CycleFrame (setTickWork p s).state p := by
  unfold setTickWork
  split
  · exact .refl s p
  · exact .ofPorts rfl rfl rfl rfl rfl fun _ => rfl

theorem setWindowWork_frame : s.CycleFrame (setWindowWork p s).state p := by
  unfold setWindowWork
  split
  all_goals with_reducible first | exact .refl s p | exact .setWindowRec

theorem setDefaultRightsWork_frame : s.CycleFrame (setDefaultRightsWork p s).state p := by
  unfold setDefaultRightsWork
  split
  · exact .refl s p
  · exact .ofPorts rfl rfl rfl rfl rfl fun _ => rfl

/-- A change of one port's record outside its state and its bus. -/
theorem State.CycleFrame.bare {f : PortState → PortState}
    (hf : ∀ r, f r = { f r with mode := r.mode, request := r.request, command := r.command, cycleEnded := r.cycleEnded, held := r.held }) :
    s.CycleFrame (s.onPort q f) p :=
  State.CycleFrame.onPort fun r => by
    rw [hf r]
    exact ⟨rfl, rfl, id, rfl, fun _ => rfl⟩

theorem State.copyRequest_frame {j : CopyJob} : s.CycleFrame (s.copyRequest p j).state p := by
  unfold State.copyRequest
  repeat' split
  all_goals try with_reducible exact .refl s p
  exact .trans .setEngine (.bare (f := fun r => { r with serial := r.serial + 1 }) fun _ => rfl)

theorem cancelCopyWork_frame : s.CycleFrame (cancelCopyWork p s).state p := by
  unfold cancelCopyWork
  repeat' split
  all_goals try with_reducible exact .refl s p
  refine .trans .setEngine (State.CycleFrame.bare (f := fun r => { r with completions := r.completions ++ [_] }) ?_)
  exact fun _ => rfl

theorem takeCompletionWork_frame : s.CycleFrame (takeCompletionWork p s).state p := by
  unfold takeCompletionWork
  split
  · exact .refl s p
  · exact .bare (f := fun r => { r with completions := _ }) fun _ => rfl

theorem resumeCopyWork_frame : s.CycleFrame (resumeCopyWork p s).state p := by
  unfold resumeCopyWork
  split
  all_goals with_reducible first | exact .refl s p | exact .setEngine

theorem sendWork_frame : s.CycleFrame (sendWork p s).state p := by
  unfold sendWork
  repeat' split
  all_goals try with_reducible exact .refl s p
  exact .bare (f := fun r => { r with inbox := r.inbox ++ [_] }) fun _ => rfl

theorem receiveWork_frame : s.CycleFrame (receiveWork p s).state p := by
  unfold receiveWork
  split
  · exact .refl s p
  · exact .bare (f := fun r => { r with inbox := _ }) fun _ => rfl

theorem setQuotaWork_frame : s.CycleFrame (setQuotaWork p s).state p := by
  unfold setQuotaWork
  repeat' split
  all_goals try with_reducible exact .refl s p
  exact .bare (f := fun r => { r with quota := _ }) fun _ => rfl

theorem takeFaultWork_frame : s.CycleFrame (takeFaultWork p s).state p := by
  unfold takeFaultWork
  split
  · exact .refl s p
  · exact .bare (f := fun r => { r with fault := none }) fun _ => rfl

theorem probeWork_frame : s.CycleFrame (probeWork p s).state p := by
  unfold probeWork
  split <;> exact .refl s p

theorem getWindowWork_frame : s.CycleFrame (getWindowWork p s).state p := by
  unfold getWindowWork
  split <;> exact .refl s p

theorem evictWork_frame : s.CycleFrame (evictWork p s).state p := by
  unfold evictWork
  repeat' split
  all_goals try with_reducible exact .refl s p
  next h => exact .endSession (by rw [State.attached_iff.mp (by simpa using h)]; decide)

theorem State.writePlain_frame {r : PlainWord} {w : Word} : s.CycleFrame (s.writePlain p r w) p := by
  unfold State.writePlain
  split
  all_goals first
    | with_reducible exact .refl s p
    | (refine State.CycleFrame.bare ?_; exact fun _ => rfl)

theorem State.writeAmode_frame {w : Word} : s.CycleFrame (s.writeAmode p w) p := by
  unfold State.writeAmode
  split
  all_goals first
    | with_reducible exact .refl s p
    | (refine State.CycleFrame.bare ?_; exact fun _ => rfl)

theorem State.writeEvenSet_frame {w : Word} : s.CycleFrame (s.writeEvenSet p w) p := by
  unfold State.writeEvenSet
  split
  all_goals first
    | with_reducible exact .refl s p
    | (refine State.CycleFrame.bare ?_; exact fun _ => rfl)

theorem State.CycleFrame.beginPoolStatus : s.CycleFrame (s.beginPoolStatus p) p := by
  unfold State.beginPoolStatus
  split
  · exact (State.CycleFrame.refl s p).post
  · exact .onPort fun _ => ⟨rfl, rfl, id, rfl, fun h => absurd rfl h⟩

/-- What the taking of a bus cycle of port `p` leaves as it is, but for an ADATA cycle, which places a request or is answered. -/
theorem takeCycle_cases (hp : c.port? = some p) :
    s.CycleFrame (takeCycle c s) p ∨ ∃ k, takeCycle c s = s.takeAdata p k := by
  have cmd : ∀ {i work}, (s.attached p = true → s.CycleFrame (work s).state p) → s.CycleFrame (s.issue i p work) p :=
    fun h => State.issue_keeps (P := fun t => s.CycleFrame t p) (.refl s p) (fun _ _ _ _ => .post) h
  cases c with
  | attach p' => cases hp; exact .inl .attach
  | detach p' => cases hp; exact .inl <| cmd fun h => .endSession (by rw [State.attached_iff.mp h]; decide)
  | evict p' => cases hp; exact .inl <| cmd fun _ => evictWork_frame
  | acquire p' => cases hp; exact .inl <| cmd fun _ => acquireWork_frame
  | release p' => cases hp; exact .inl <| cmd fun _ => releaseWork_frame
  | renew p' => cases hp; exact .inl <| cmd fun _ => renewWork_frame
  | withdraw p' => cases hp; exact .inl <| cmd fun _ => withdrawWork_frame
  | lockStatus p' => cases hp; exact .inl <| cmd fun _ => State.CycleFrame.withLock fun _ => .refl s p
  | setLock p' => cases hp; exact .inl <| cmd fun _ => setLockWork_frame
  | breakLock p' => cases hp; exact .inl <| cmd fun _ => breakWork_frame
  | setTick p' => cases hp; exact .inl <| cmd fun _ => setTickWork_frame
  | probe p' => cases hp; exact .inl <| cmd fun _ => probeWork_frame
  | getWindow p' => cases hp; exact .inl <| cmd fun _ => getWindowWork_frame
  | setWindow p' => cases hp; exact .inl <| cmd fun _ => setWindowWork_frame
  | setDefaultRights p' => cases hp; exact .inl <| cmd fun _ => setDefaultRightsWork_frame
  | copy p' => cases hp; exact .inl <| cmd fun _ => State.copyRequest_frame
  | fill p' => cases hp; exact .inl <| cmd fun _ => State.copyRequest_frame
  | cancelCopy p' => cases hp; exact .inl <| cmd fun _ => cancelCopyWork_frame
  | takeCompletion p' => cases hp; exact .inl <| cmd fun _ => takeCompletionWork_frame
  | pauseCopy p' => cases hp; exact .inl <| cmd fun _ => .setEngine
  | resumeCopy p' => cases hp; exact .inl <| cmd fun _ => resumeCopyWork_frame
  | send p' => cases hp; exact .inl <| cmd fun _ => sendWork_frame
  | receive p' => cases hp; exact .inl <| cmd fun _ => receiveWork_frame
  | msgStatus p' => cases hp; exact .inl <| cmd fun _ => .refl s p
  | setQuota p' => cases hp; exact .inl <| cmd fun _ => setQuotaWork_frame
  | takeLockEvents p' =>
    cases hp
    exact .inl <| cmd fun _ => .bare (f := fun r => { r with granted := 0, revoked := 0, waitEnd := 0 }) fun _ => rfl
  | takePeerEvents p' =>
    cases hp
    exact .inl <| cmd fun _ => .bare (f := fun r => { r with peerUp := 0, peerDown := 0 }) fun _ => rfl
  | takeFault p' => cases hp; exact .inl <| cmd fun _ => takeFaultWork_frame
  | poolStatus p' => cases hp; exact .inl .beginPoolStatus
  | badCommand p' => cases hp; exact .inl (State.CycleFrame.refl s p).post
  | adataRead p' => cases hp; exact .inr ⟨_, rfl⟩
  | adataWrite p' => cases hp; exact .inr ⟨_, rfl⟩
  | amodeWrite p' => cases hp; exact .inl State.writeAmode_frame
  | evenSet p' => cases hp; exact .inl State.writeEvenSet_frame
  | evenClr p' w =>
    cases hp
    exact .inl <| .bare (f := fun r => { r with enables := r.enables &&& ~~~(classFlags w) }) fun _ => rfl
  | registerWrite p' => cases hp; exact .inl State.writePlain_frame
  | _ => cases hp

/-! ### The catching up of a bus -/

@[simp] theorem State.endCommand_port_request : ((s.endCommand p).port q).request = (s.port q).request := by
  unfold State.endCommand State.postPoolStatus
  split
  · exact State.post_port_request ..
  · rfl
  · rfl

/-- The taking of any cycle leaves the held cycles of every port. -/
theorem takeCycle_held : ((takeCycle c s).port q).held = (s.port q).held := by
  cases hp : c.port? with
  | none => cases c <;> first | rfl | cases hp
  | some p =>
    rcases takeCycle_cases (s := s) hp with h | ⟨k, h⟩
    · exact h.held q
    · rw [h]
      unfold State.takeAdata
      split <;> (rw [State.port_onPort]; split <;> rfl)

/-- A bus that is still answerable after held cycles were taken on it holds fewer than there were. -/
theorem takeHeld_shorter {held : List Instr} {ended : Bool} (hs : (s.port p).stretched = false)
    (ha : ((takeHeld p ended held s).port p).answerable = true) :
    ((takeHeld p ended held s).port p).held.length < held.length := by
  induction held generalizing s with
  | nil =>
    have : (s.port p).request = none ∧ (s.port p).command = none := by simpa [PortState.stretched] using hs
    simp [takeHeld, PortState.answerable, PortState.busy, PortState.stretched, this] at ha
  | cons c rest ih =>
    rw [takeHeld_cons] at ha ⊢
    split at ha
    · next h => simp [h]
    · next h =>
      rw [if_neg h]
      exact Nat.lt_succ_of_lt (ih (by simpa using h) ha)

/-- Each answer leaves fewer held cycles, as long as the bus is answerable. -/
theorem State.answerBus_shorter (ha : (s.port p).answerable = true) (hb : ((s.answerBus p).port p).answerable = true) :
    ((s.answerBus p).port p).held.length < (s.port p).held.length := by
  have hr : (s.port p).request = none := by simp [PortState.answerable] at ha; exact ha.1
  refine takeHeld_shorter ?_ hb
  simp [State.answerCommand, PortState.stretched, hr]

/-- As many answers as there are held cycles, and one more, catch a bus up. -/
theorem State.answerBuses_enough {n m : Nat} (hn : (s.port p).held.length < n) (hm : (s.port p).held.length < m) :
    State.answerBuses p n s = State.answerBuses p m s := by
  induction n generalizing s m with
  | zero => exact absurd hn (Nat.not_lt_zero _)
  | succ n ih =>
    obtain ⟨m, rfl⟩ := Nat.exists_eq_succ_of_ne_zero (Nat.ne_zero_of_lt hm)
    unfold State.answerBuses
    split
    · next ha =>
      by_cases hb : ((s.answerBus p).port p).answerable = true
      · have := State.answerBus_shorter ha hb
        exact ih (by omega) (by omega)
      · cases n <;> cases m <;> simp [State.answerBuses, hb]
    · rfl

/-- An answerable bus catches up by one answer after the other. -/
theorem State.caughtUp_step (ha : (s.port p).answerable = true) : s.caughtUp p = (s.answerBus p).caughtUp p := by
  have h1 : s.caughtUp p = State.answerBuses p (s.port p).held.length (s.answerBus p) := by
    simp [State.caughtUp, State.answerBuses, ha]
  rw [h1]
  unfold State.caughtUp
  by_cases hb : ((s.answerBus p).port p).answerable = true
  · exact State.answerBuses_enough (State.answerBus_shorter ha hb) (Nat.lt_succ_self _)
  · cases h : (s.port p).held.length <;> simp [State.answerBuses, hb]

/-- A bus with nothing to answer has nothing to catch up. -/
theorem State.caughtUp_of_not_answerable (ha : (s.port p).answerable = false) : s.caughtUp p = s := by
  simp [State.caughtUp, State.answerBuses, ha]

end Sys2Proof.Machine
end

