-- ==== Sys2Proof/Laws/Memory.lean ====
section
/-! SUPPORT. Shared memory: a read after a write, and the canonical form that every write keeps. -/

namespace Sys2Proof.Machine

theorem Memory.read_cons (a b : Nat) (w : Word) (m : Memory) (hm : Memory.read m b = Config.unwrittenWord ∨ a ≠ b) :
    Memory.read (Memory.cons a w m) b = if b = a then w else Memory.read m b := by
  unfold Memory.cons
  split
  · next h =>
    split
    · next hb => subst hb; rcases hm with hm | hm <;> simp_all
    · rfl
  · simp only [Memory.read]

theorem Memory.above_mono {n k : Nat} (h : k ≤ n) : ∀ {m : Memory}, Memory.above n m = true → Memory.above k m = true
  | [], _ => rfl
  | (a, _) :: m, hm => by
    simp only [Memory.above, Bool.and_eq_true, decide_eq_true_eq] at hm ⊢
    exact ⟨by omega, Memory.above_mono h hm.2⟩

theorem Memory.read_of_above {n a : Nat} (h : a < n) : ∀ {m : Memory}, Memory.above n m = true →
    Memory.read m a = Config.unwrittenWord
  | [], _ => rfl
  | (b, w) :: m, hm => by
    simp only [Memory.above, Bool.and_eq_true, decide_eq_true_eq] at hm
    have hb : a ≠ b := by omega
    simp [Memory.read, hb, Memory.read_of_above h hm.2]

theorem Memory.above_cons {n a : Nat} {w : Word} {m : Memory} (h : n ≤ a) (hm : Memory.above n m = true) :
    Memory.above n (Memory.cons a w m) = true := by
  unfold Memory.cons
  split <;> simp [Memory.above, *]

theorem Memory.wf_cons {a : Nat} {w : Word} {m : Memory} (ha : a < 32768) (hm : Memory.wf m = true)
    (hab : Memory.above (a + 1) m = true) : Memory.wf (Memory.cons a w m) = true := by
  unfold Memory.cons
  split
  · exact hm
  · simp [Memory.wf, *]

theorem Memory.above_write {n a : Nat} {w : Word} (h : n ≤ a) : ∀ {m : Memory}, Memory.above n m = true →
    Memory.above n (Memory.write m a w) = true
  | [], _ => Memory.above_cons h rfl
  | (b, v) :: m, hm => by
    unfold Memory.write
    split
    · exact Memory.above_cons h hm
    · simp only [Memory.above, Bool.and_eq_true, decide_eq_true_eq] at hm
      split
      · exact Memory.above_cons h hm.2
      · simp [Memory.above, hm.1, Memory.above_write h hm.2]

/-- Every write keeps the canonical form. -/
theorem Memory.wf_write {a : Nat} {w : Word} (ha : a < 32768) : ∀ {m : Memory}, Memory.wf m = true →
    Memory.wf (Memory.write m a w) = true
  | [], _ => Memory.wf_cons ha rfl rfl
  | (b, v) :: m, hm => by
    unfold Memory.write
    have hm' := hm
    simp only [Memory.wf, Bool.and_eq_true, decide_eq_true_eq] at hm'
    split
    · next hab =>
      refine Memory.wf_cons ha hm ?_
      simp only [Memory.above, Bool.and_eq_true, decide_eq_true_eq]
      exact ⟨by omega, Memory.above_mono (by omega) hm'.1.2⟩
    · split
      · next h => exact Memory.wf_cons ha hm'.2 (h ▸ hm'.1.2)
      · have hbelow : b + 1 ≤ a := by omega
        simp only [Memory.wf, Bool.and_eq_true, decide_eq_true_eq]
        exact ⟨⟨hm'.1.1, Memory.above_write hbelow hm'.1.2⟩, Memory.wf_write ha hm'.2⟩

/-- A read returns the word last written to that address, and every other address reads as before (R52). -/
theorem Memory.read_write {a b : Nat} {w : Word} : ∀ {m : Memory}, Memory.wf m = true →
    Memory.read (Memory.write m a w) b = if b = a then w else Memory.read m b
  | [], _ => Memory.read_cons a b w [] (.inl rfl)
  | (c, v) :: m, hm => by
    unfold Memory.write
    simp only [Memory.wf, Bool.and_eq_true, decide_eq_true_eq] at hm
    split
    · next hac =>
      apply Memory.read_cons
      by_cases hb : a = b
      · left
        have hcb : b ≠ c := by omega
        simp [Memory.read, hcb, Memory.read_of_above (n := c + 1) (a := b) (by omega) hm.1.2]
      · exact .inr hb
    · split
      · next hac =>
        subst hac
        have key : Memory.read m b = Config.unwrittenWord ∨ a ≠ b := by
          by_cases hb : a = b
          · exact .inl (Memory.read_of_above (n := a + 1) (by omega) hm.1.2)
          · exact .inr hb
        rw [Memory.read_cons a b w m key]
        split
        · rfl
        · next hb => simp [Memory.read, hb]
      · next hca hne =>
        simp only [Memory.read, Memory.read_write hm.2]
        by_cases hcb : b = c
        · have hba : b ≠ a := by omega
          simp [hcb]
          omega
        · simp [hcb]

/-- The memory of the reset state has the canonical form. -/
theorem Memory.wf_reset : Memory.wf State.reset.mem = true := rfl

end Sys2Proof.Machine
end

