-- ==== Sys2Proof/Laws/Operands.lean ====
section
/-! SUPPORT. When each argument field is read and when it is refused: the lemmas proofs cite instead of unfolding the fields. -/

namespace Sys2Proof.Machine

variable {w : Word}

theorem lockField_of {l : LockNo} (h : w.toNat = l.val) : lockField w = some l := by
  have hl := l.isLt
  unfold lockField
  rw [dif_pos (by omega)]
  exact congrArg some (Fin.ext h)

theorem lockField_none (h : 32 ≤ w.toNat) : lockField w = none := by
  unfold lockField
  rw [dif_neg (by omega)]

theorem portField_of {p : Port} (h : w.toNat = p.val) : portField w = some p := by
  have hp := p.isLt
  unfold portField
  rw [dif_pos (by omega)]
  exact congrArg some (Fin.ext h)

theorem portField_none (h : 3 < w.toNat) : portField w = none := by
  unfold portField
  rw [dif_neg (by omega)]

theorem windowField_of {i : WindowNo} (h : w.toNat = i.val) : windowField w = some i := by
  have hi := i.isLt
  unfold windowField
  rw [dif_pos (by omega)]
  exact congrArg some (Fin.ext h)

theorem windowField_none (h : 16 ≤ w.toNat) : windowField w = none := by
  unfold windowField
  rw [dif_neg (by omega)]

theorem rangeField_of {a b : Nat} (h1 : a ≤ w.toNat) (h2 : w.toNat ≤ b) : rangeField a b w = some w.toNat := by
  unfold rangeField
  rw [if_pos ⟨h1, h2⟩]

theorem rangeField_none {a b : Nat} (h : w.toNat < a ∨ b < w.toNat) : rangeField a b w = none := by
  unfold rangeField
  rw [if_neg (by omega)]

theorem byteField_of (h : w.toNat ≤ 255) : byteField w = some (w.setWidth 8) := by
  unfold byteField
  rw [if_pos h]

theorem byteField_none (h : 255 < w.toNat) : byteField w = none := by
  unfold byteField
  rw [if_neg (by omega)]

theorem flagField_of {e : Bool} (h : w = if e then 1 else 0) : flagField w = some e := by
  subst h
  cases e <;> rfl

theorem flagField_none (h : 1 < w.toNat) : flagField w = none := by
  unfold flagField
  rw [if_neg (by rintro rfl; simp at h), if_neg (by rintro rfl; simp at h)]

/-- A flag word is malformed exactly when it is neither 0000H nor 0001H. -/
theorem flagField_none_of_ne (h0 : w ≠ 0) (h1 : w ≠ 1) : flagField w = none := by
  unfold flagField
  rw [if_neg h0, if_neg h1]

theorem modeField_of {m : ReqMode} (h : w = m.code.setWidth 16) : modeField w = some m := by
  subst h
  cases m <;> rfl

theorem modeField_none (h1 : w ≠ 1) (h2 : w ≠ 2) : modeField w = none := by
  unfold modeField
  rw [if_neg h1, if_neg h2]

theorem dirField_of {d : Dir} (h : w = d.code.setWidth 16) : dirField w = some d := by
  subst h
  cases d <;> rfl

theorem dirField_none (h : 1 < w.toNat) : dirField w = none := by
  unfold dirField
  rw [if_neg (by rintro rfl; simp at h), if_neg (by rintro rfl; simp at h)]

theorem amodeField_of {m : AdvanceMode} (h : w = m.code.setWidth 16) : amodeField w = some m := by
  subst h
  cases m <;> rfl

theorem amodeField_none (h : 2 < w.toNat) : amodeField w = none := by
  unfold amodeField
  rw [if_neg (by rintro rfl; simp at h), if_neg (by rintro rfl; simp at h), if_neg (by rintro rfl; simp at h)]

/-- The high byte of a word is zero exactly when the word is below 256. -/
theorem highByte_eq_zero_iff : w.extractLsb' 8 8 = 0 ↔ w.toNat < 256 := by
  constructor
  · intro h
    have := congrArg BitVec.toNat h
    simp [Nat.shiftRight_eq_div_pow] at this
    omega
  · intro h
    apply BitVec.eq_of_toNat_eq
    simp [Nat.shiftRight_eq_div_pow]
    omega

theorem rightsField_of (h : w.toNat < 256) : rightsField w = some (w.setWidth 8) := by
  unfold rightsField
  rw [if_pos (highByte_eq_zero_iff.mpr h)]

theorem rightsField_none (h : 256 ≤ w.toNat) : rightsField w = none := by
  unfold rightsField
  rw [if_neg (fun hz => by have := highByte_eq_zero_iff.mp hz; omega)]

/-! ### The checks of whole commands -/

/-- ACQUIRE's fields are accepted (R7). -/
theorem acquireArgs_of {a b c : Word} {m : ReqMode} {f : Bool} (h1 : a = m.code.setWidth 16)
    (h2 : b = if f then 1 else 0) (h3 : c.toNat ≤ 1023) :
    acquireArgs a b c = some { mode := m, wait := f, limit := c.toNat } := by
  unfold acquireArgs
  rw [modeField_of h1, flagField_of h2, rangeField_of (b := Config.mostTicks) (Nat.zero_le _) h3]

/-- ACQUIRE's fields are refused (R7 check 2). -/
theorem acquireArgs_none {a b c : Word} (h : (a ≠ 1 ∧ a ≠ 2) ∨ (b ≠ 0 ∧ b ≠ 1) ∨ 1023 < c.toNat) :
    acquireArgs a b c = none := by
  unfold acquireArgs
  rcases h with ⟨h1, h2⟩ | ⟨h1, h2⟩ | h
  · rw [modeField_none h1 h2]
  · rw [flagField_none_of_ne h1 h2]
    split <;> simp_all
  · rw [rangeField_none (b := Config.mostTicks) (.inr h)]
    split <;> simp_all

/-- A lock command whose number names no lock (R7, R16, R18, R19, R21, R22, R24). -/
theorem State.withLock_bad {s : State} {p : Port} {k : LockNo → Reply} (h : 32 ≤ (s.arg p 0).toNat) :
    s.withLock p k = { state := s, result := .badLock } := by
  unfold State.withLock
  rw [lockField_none h]

/-- A lock command goes on with the lock its number names. -/
theorem State.withLock_of {s : State} {p : Port} {k : LockNo → Reply} {l : LockNo} (h : (s.arg p 0).toNat = l.val) :
    s.withLock p k = k l := by
  unfold State.withLock
  rw [lockField_of h]

end Sys2Proof.Machine
end

