-- ==== Sys2Proof/Laws/PerInstr.lean ====
section
/-! SUPPORT. One lemma per command about its code as syntax: a command with a code of Table 9-1 is a well-formed cycle of one port,
and a word with that code is an assigned one. -/

namespace Sys2Proof.Laws.CmdCode

/-- A command with a command code is a port's cycle, is well formed, and its code is assigned (Table 9-1, R173 step 1). -/
def Statement (i : Instr) : Prop :=
  ∀ c : Byte, i.code? = some c →
    (∃ p, i.port? = some p) ∧ i.wellFormed = true ∧ assignedCode (c.setWidth 16) = true

theorem attach (p : Port) : Statement (.attach p) := fun _ h => by
  cases h
  exact ⟨⟨p, rfl⟩, rfl, rfl⟩

theorem detach (p : Port) : Statement (.detach p) := fun _ h => by
  cases h
  exact ⟨⟨p, rfl⟩, rfl, rfl⟩

theorem evict (p : Port) : Statement (.evict p) := fun _ h => by
  cases h
  exact ⟨⟨p, rfl⟩, rfl, rfl⟩

theorem acquire (p : Port) : Statement (.acquire p) := fun _ h => by
  cases h
  exact ⟨⟨p, rfl⟩, rfl, rfl⟩

theorem release (p : Port) : Statement (.release p) := fun _ h => by
  cases h
  exact ⟨⟨p, rfl⟩, rfl, rfl⟩

theorem renew (p : Port) : Statement (.renew p) := fun _ h => by
  cases h
  exact ⟨⟨p, rfl⟩, rfl, rfl⟩

theorem withdraw (p : Port) : Statement (.withdraw p) := fun _ h => by
  cases h
  exact ⟨⟨p, rfl⟩, rfl, rfl⟩

theorem lockStatus (p : Port) : Statement (.lockStatus p) := fun _ h => by
  cases h
  exact ⟨⟨p, rfl⟩, rfl, rfl⟩

theorem setLock (p : Port) : Statement (.setLock p) := fun _ h => by
  cases h
  exact ⟨⟨p, rfl⟩, rfl, rfl⟩

theorem breakLock (p : Port) : Statement (.breakLock p) := fun _ h => by
  cases h
  exact ⟨⟨p, rfl⟩, rfl, rfl⟩

theorem setTick (p : Port) : Statement (.setTick p) := fun _ h => by
  cases h
  exact ⟨⟨p, rfl⟩, rfl, rfl⟩

theorem probe (p : Port) : Statement (.probe p) := fun _ h => by
  cases h
  exact ⟨⟨p, rfl⟩, rfl, rfl⟩

theorem getWindow (p : Port) : Statement (.getWindow p) := fun _ h => by
  cases h
  exact ⟨⟨p, rfl⟩, rfl, rfl⟩

theorem setWindow (p : Port) : Statement (.setWindow p) := fun _ h => by
  cases h
  exact ⟨⟨p, rfl⟩, rfl, rfl⟩

theorem setDefaultRights (p : Port) : Statement (.setDefaultRights p) := fun _ h => by
  cases h
  exact ⟨⟨p, rfl⟩, rfl, rfl⟩

theorem copy (p : Port) : Statement (.copy p) := fun _ h => by
  cases h
  exact ⟨⟨p, rfl⟩, rfl, rfl⟩

theorem fill (p : Port) : Statement (.fill p) := fun _ h => by
  cases h
  exact ⟨⟨p, rfl⟩, rfl, rfl⟩

theorem cancelCopy (p : Port) : Statement (.cancelCopy p) := fun _ h => by
  cases h
  exact ⟨⟨p, rfl⟩, rfl, rfl⟩

theorem takeCompletion (p : Port) : Statement (.takeCompletion p) := fun _ h => by
  cases h
  exact ⟨⟨p, rfl⟩, rfl, rfl⟩

theorem pauseCopy (p : Port) : Statement (.pauseCopy p) := fun _ h => by
  cases h
  exact ⟨⟨p, rfl⟩, rfl, rfl⟩

theorem resumeCopy (p : Port) : Statement (.resumeCopy p) := fun _ h => by
  cases h
  exact ⟨⟨p, rfl⟩, rfl, rfl⟩

theorem send (p : Port) : Statement (.send p) := fun _ h => by
  cases h
  exact ⟨⟨p, rfl⟩, rfl, rfl⟩

theorem receive (p : Port) : Statement (.receive p) := fun _ h => by
  cases h
  exact ⟨⟨p, rfl⟩, rfl, rfl⟩

theorem msgStatus (p : Port) : Statement (.msgStatus p) := fun _ h => by
  cases h
  exact ⟨⟨p, rfl⟩, rfl, rfl⟩

theorem setQuota (p : Port) : Statement (.setQuota p) := fun _ h => by
  cases h
  exact ⟨⟨p, rfl⟩, rfl, rfl⟩

theorem takeLockEvents (p : Port) : Statement (.takeLockEvents p) := fun _ h => by
  cases h
  exact ⟨⟨p, rfl⟩, rfl, rfl⟩

theorem takePeerEvents (p : Port) : Statement (.takePeerEvents p) := fun _ h => by
  cases h
  exact ⟨⟨p, rfl⟩, rfl, rfl⟩

theorem takeFault (p : Port) : Statement (.takeFault p) := fun _ h => by
  cases h
  exact ⟨⟨p, rfl⟩, rfl, rfl⟩

theorem poolStatus (p : Port) : Statement (.poolStatus p) := fun _ h => by
  cases h
  exact ⟨⟨p, rfl⟩, rfl, rfl⟩

theorem badCommand (p : Port) (w : Word) : Statement (.badCommand p w) := fun _ h => nomatch h

theorem adataRead (p : Port) : Statement (.adataRead p) := fun _ h => nomatch h

theorem adataWrite (p : Port) (w : Word) : Statement (.adataWrite p w) := fun _ h => nomatch h

theorem apertureAccess : Statement .apertureAccess := fun _ h => nomatch h

theorem copyWordMove : Statement .copyWordMove := fun _ h => nomatch h

theorem amodeWrite (p : Port) (w : Word) : Statement (.amodeWrite p w) := fun _ h => nomatch h

theorem evenSet (p : Port) (w : Word) : Statement (.evenSet p w) := fun _ h => nomatch h

theorem evenClr (p : Port) (w : Word) : Statement (.evenClr p w) := fun _ h => nomatch h

theorem registerWrite (p : Port) (r : PlainWord) (w : Word) : Statement (.registerWrite p r w) := fun _ h => nomatch h

theorem leaseTick : Statement .leaseTick := fun _ h => nomatch h

theorem waitExpiry (l : LockNo) (p : Port) : Statement (.waitExpiry l p) := fun _ h => nomatch h

theorem leaseExpiry (l : LockNo) : Statement (.leaseExpiry l) := fun _ h => nomatch h

theorem resetnAsserted : Statement .resetnAsserted := fun _ h => nomatch h

theorem resetnNegated (csel : Port) : Statement (.resetnNegated csel) := fun _ h => nomatch h

theorem prstnAsserted (p : Port) : Statement (.prstnAsserted p) := fun _ h => nomatch h

theorem prstnNegated (p : Port) : Statement (.prstnNegated p) := fun _ h => nomatch h

theorem cycleEndedEarly (p : Port) : Statement (.cycleEndedEarly p) := fun _ h => nomatch h

end Sys2Proof.Laws.CmdCode
end

