-- ==== Sys2Proof/Laws/Windows.lean ====
section
/-! SUPPORT. The window unit's lookup: which window is hit, and where a lawful window's ranges end. -/

namespace Sys2Proof.Machine

variable {s : State} {w : Window} {v : Word} {i : WindowNo}

theorem Window.covers_iff : w.covers v = true ↔
    w.enabled = true ∧ w.viewBase.toNat ≤ v.toNat ∧ v.toNat < w.viewBase.toNat + 2 ^ w.size := by
  simp [Window.covers, and_assoc]

/-- The hit window is the lowest enabled one whose range contains the address (R58, R59). -/
theorem State.hitWindow_eq_some_iff :
    s.hitWindow v = some i ↔ (s.window i).covers v = true ∧ ∀ j, j < i → (s.window j).covers v = false := by
  unfold State.hitWindow
  rw [List.find?_eq_some_iff_getElem]
  constructor
  · rintro ⟨h, k, hk, he, hb⟩
    refine ⟨h, fun j hj => ?_⟩
    have hk' : k = i.val := by simpa using congrArg Fin.val he
    have := hb j.val (by rw [hk']; exact hj)
    simpa using this
  · rintro ⟨h, hb⟩
    refine ⟨h, i.val, by simp, by simp, fun j hj => ?_⟩
    have := hb ⟨j, by omega⟩ hj
    simp [this]

theorem State.hitWindow_eq_none_iff : s.hitWindow v = none ↔ ∀ j, (s.window j).covers v = false := by
  unfold State.hitWindow
  simp

/-- A lookup hits exactly when there is a hit window, at the address the window maps to (R58). -/
theorem State.lookup_hit {a : MemAddr} (h : s.lookup v = .hit i a) :
    s.hitWindow v = some i ∧ a = (s.window i).translate v := by
  unfold State.lookup at h
  split at h
  · next j hj => cases h; exact ⟨hj, rfl⟩
  · split at h <;> cases h

theorem State.lookup_default {a : MemAddr} (h : s.lookup v = .default a) :
    s.hitWindow v = none ∧ v.toNat < 0x8000 ∧ a = v.setWidth 15 := by
  unfold State.lookup at h
  split at h
  · cases h
  · next hn =>
    split at h
    · next hv => cases h; exact ⟨hn, hv, rfl⟩
    · cases h

/-- A base that is a multiple of 2^k lies at least 2^k below the end of a space that 2^k divides. -/
theorem base_le {b k n : Nat} (hb : b < 2 ^ n) (hk : k ≤ n) (hm : b % 2 ^ k = 0) : b + 2 ^ k ≤ 2 ^ n := by
  obtain ⟨c, hc⟩ := Nat.dvd_of_mod_eq_zero hm
  obtain ⟨d, hd⟩ : 2 ^ k ∣ 2 ^ n := Nat.pow_dvd_pow 2 hk
  have hlt : c < d := by
    by_contra hcd
    have := Nat.mul_le_mul_left (2 ^ k) (Nat.le_of_not_lt hcd)
    omega
  have := Nat.mul_le_mul_left (2 ^ k) (Nat.succ_le_of_lt hlt)
  rw [Nat.mul_succ] at this
  omega

/-- A lawful window's view range lies in the view space, and its target range in the memory (R56). -/
theorem Window.Lawful.ranges (h : w.Lawful) :
    w.viewBase.toNat + 2 ^ w.size ≤ 65536 ∧ w.targetBase.toNat + 2 ^ w.size ≤ 32768 :=
  ⟨base_le (n := 16) w.viewBase.isLt (by have := h.2.1; omega) h.2.2.1,
    base_le (n := 15) w.targetBase.isLt h.2.1 h.2.2.2⟩

/-- A lawful window maps an address of its range to target base + (v - view base) (R58). -/
theorem Window.Lawful.translate_toNat (h : w.Lawful) (hc : w.covers v = true) :
    (w.translate v).toNat = w.targetBase.toNat + (v.toNat - w.viewBase.toNat) := by
  obtain ⟨_, h1, h2⟩ := Window.covers_iff.mp hc
  have hsub : (v - w.viewBase).toNat = v.toNat - w.viewBase.toNat := by
    rw [BitVec.toNat_sub]
    have := v.isLt
    have := w.viewBase.isLt
    omega
  have hb := h.ranges.2
  unfold Window.translate
  rw [BitVec.toNat_add, BitVec.toNat_setWidth, hsub]
  rw [Nat.mod_eq_of_lt (a := v.toNat - w.viewBase.toNat) (by omega), Nat.mod_eq_of_lt (by omega)]

/-- The last view address of a lawful window. -/
theorem Window.Lawful.last_toNat (h : w.Lawful) : w.last.toNat = w.viewBase.toNat + (2 ^ w.size - 1) := by
  have hb := h.ranges.1
  have hpos : 0 < 2 ^ w.size := by positivity
  unfold Window.last
  rw [BitVec.toNat_add, BitVec.toNat_ofNat, Nat.mod_eq_of_lt (a := 2 ^ w.size - 1) (by omega),
    Nat.mod_eq_of_lt (by omega)]

end Sys2Proof.Machine
end

