-- ==== Sys2Proof/Laws/Words.lean ====
section
/-! SUPPORT. The packed words as numbers: fields side by side, one field or bit of a word, and the value of every packed result
word of Chapter 10. -/

namespace Sys2Proof

/-- Fields packed side by side, as a number. -/
theorem toNat_pack {n m : Nat} (x : BitVec n) (y : BitVec m) : (x ++ y).toNat = x.toNat * 2 ^ m + y.toNat := by
  rw [BitVec.toNat_append, Nat.shiftLeft_eq, Nat.mul_comm, ← Nat.two_pow_add_eq_or_of_lt y.isLt]

/-- The number of a field of a word. -/
theorem toNat_extract {n : Nat} (x : BitVec n) (i m : Nat) : (x.extractLsb' i m).toNat = x.toNat / 2 ^ i % 2 ^ m := by
  rw [BitVec.extractLsb'_toNat, Nat.shiftRight_eq_div_pow]

/-- One bit of a word. -/
theorem getLsbD_eq {n : Nat} (x : BitVec n) (i : Nat) : x.getLsbD i = decide (x.toNat / 2 ^ i % 2 = 1) := by
  rw [BitVec.getLsbD, Nat.testBit_eq_decide_div_mod_eq]

namespace Machine

/-- RES0 of LOCK_STATUS (Table 10-7). -/
theorem LockRec.summary_toNat (r : LockRec) : r.summary.toNat =
    r.queue.length % 4 * 256 + r.holders.toNat * 16 + r.mode.code.toNat * 2 + r.enabled.toNat := by
  unfold LockRec.summary
  simp only [toNat_pack, BitVec.toNat_ofNat, BitVec.toNat_ofBool]
  omega

/-- The fields of RES0 of LOCK_STATUS (Table 10-7). -/
theorem LockRec.summary_fields (r : LockRec) : r.summary.getLsbD 0 = r.enabled ∧ r.summary.extractLsb' 1 2 = r.mode.code
    ∧ r.summary.extractLsb' 4 4 = r.holders ∧ (r.summary.extractLsb' 8 2).toNat = r.queue.length % 4 := by
  have h1 := r.holders.isLt
  have h2 := r.mode.code.isLt
  have h3 := Bool.toNat_le r.enabled
  refine ⟨?_, ?_, ?_, ?_⟩
  · rw [getLsbD_eq, LockRec.summary_toNat]
    cases r.enabled <;> simp <;> omega
  · apply BitVec.eq_of_toNat_eq
    rw [toNat_extract, LockRec.summary_toNat]; omega
  · apply BitVec.eq_of_toNat_eq
    rw [toNat_extract, LockRec.summary_toNat]; omega
  · rw [toNat_extract, LockRec.summary_toNat]; omega

/-- The two words of a queue position (Table 10-7). -/
theorem entryWords_fields (e : Waiter) : ∃ w v, entryWords (some e) = [w, v] ∧ w.getLsbD 15 = true
    ∧ w.extractLsb' 8 2 = e.mode.code ∧ (w.extractLsb' 0 2).toNat = e.port.val ∧ v = ticksWord e.wait := by
  have h1 := e.mode.code.isLt
  have h2 := e.port.isLt
  have hn : (1#1 ++ 0#5 ++ e.mode.code ++ 0#6 ++ BitVec.ofNat 2 e.port.val : BitVec (1 + 5 + 2 + 6 + 2)).toNat = 32768 + e.mode.code.toNat * 256 + e.port.val := by
    simp only [toNat_pack, BitVec.toNat_ofNat]
    omega
  refine ⟨_, _, rfl, ?_, ?_, ?_, rfl⟩
  · rw [getLsbD_eq]; erw [hn]; simp; omega
  · apply BitVec.eq_of_toNat_eq; rw [toNat_extract]; erw [hn]; omega
  · rw [toNat_extract]; erw [hn]; omega

/-- RES0 of TAKE_FAULT (Table 10-15). -/
theorem FaultRecord.summary_toNat (f : FaultRecord) : f.summary.toNat = f.more.toNat * 256 + f.dir.code.toNat * 16 + f.kind.code.toNat := by
  unfold FaultRecord.summary
  simp only [toNat_pack, BitVec.toNat_ofNat, BitVec.toNat_ofBool]
  omega

/-- RES0 of RECEIVE (Table 10-14). -/
theorem Message.summary_toNat (m : Message) : m.summary.toNat = m.source.val * 4096 + m.payload.length % 16 * 256 + m.tag.toNat := by
  have := m.source.isLt
  unfold Message.summary
  simp only [toNat_pack, BitVec.toNat_ofNat]
  omega

/-- RES2 of TAKE_COMPLETION (Table 10-12). -/
theorem Completion.summary_toNat (c : Completion) : c.summary.toNat =
    (match c.status with
      | .refused _ _ d => d.code.toNat
      | .done => 0
      | .cancelled => 0) * 512 + c.kind.code.toNat * 256 + c.status.code.toNat := by
  unfold Completion.summary
  cases c.status <;> simp only [toNat_pack, BitVec.toNat_ofNat] <;> omega

/-- RES6 of GET_WINDOW (Table 10-9). -/
theorem Window.guardWord_toNat (w : Window) : w.guardWord.toNat = w.guardReads.toNat * 512 + w.guard.isSome.toNat * 256
    + (match w.guard with | none => 0 | some l => l.val) := by
  unfold Window.guardWord
  have : (match w.guard with | none => 0 | some (l : LockNo) => l.val) < 256 := by
    cases hg : w.guard with
    | none => simp
    | some l => have := l.isLt; simp; omega
  simp only [toNat_pack, BitVec.toNat_ofNat, BitVec.toNat_ofBool]
  cases hg : w.guard with
  | none => simp; omega
  | some l => have := l.isLt; simp; omega

/-- A present field is its number with bit 15 set (R185). -/
theorem presentWord_some {n : Nat} (h : n < 32768) : presentWord (some n) = BitVec.ofNat 16 (0x8000 + n) := by
  apply BitVec.eq_of_toNat_eq
  unfold presentWord numWord
  have := Nat.two_pow_add_eq_or_of_lt (i := 15) (b := n) h 1
  simp only [BitVec.toNat_or, BitVec.toNat_ofNat]
  simp at this ⊢
  rw [Nat.mod_eq_of_lt (a := n) (by omega), ← this]; omega

end Machine

end Sys2Proof
end

