-- ==== Sys2Proof/Tests/Slice0.lean ====
section
/-! SUPPORT. Small tests of the model: the ill-formed command is refused, the worked examples of the manual come out as printed, and
for every statement with hypotheses a concrete state and operands meet them, clause by clause. -/

namespace Sys2Proof.Tests

-- The theorems below are evaluated by the kernel one after the other.
set_option Elab.async false

open Sys2Proof.Machine

/-! ### Small states -/

/-- In service: P0 is the control port and all four ports are ATTACHED in their first session. -/
def base : State :=
  { State.reset with
    resetAsserted := false, control := some 0
    ports := Vector.replicate 4 { PortState.reset with mode := .attached, session := 1 } }

/-- The ARG words of a port, the first ones given. -/
def args (p : Port) (ws : List Word) (s : State) : State :=
  s.onPort p fun r => { r with args := Vector.ofFn fun i => ws.getD i.val 0 }

def mode (p : Port) (m : PortMode) (s : State) : State := s.onPort p fun r => { r with mode := m }

def lock (l : LockNo) (r : LockRec) (s : State) : State := { s with locks := s.locks.set l r }

def window (i : WindowNo) (w : Window) (s : State) : State := s.setWindowRec i w

def request (p : Port) (k : AccessKind) (v : Word) (s : State) : State :=
  s.onPort p fun r => { r with request := some { kind := k, view := v, session := 1 } }

def entry (p : Port) (m : ReqMode) (w : Option Nat) : Waiter := { port := p, mode := m, wait := w }

/-- An enabled lock held EXCLUSIVE by one port. -/
def heldBy (p : Port) (length : Nat) (left : Option Nat) (q : List Waiter) : LockRec :=
  { enabled := true, mode := .exclusive, holders := PortSet.ofList [p], leaseLength := length, leaseLeft := left, queue := q }

/-- An unleased lock held SHARED. -/
def sharedBy (ps : List Port) (q : List Waiter) : LockRec :=
  { enabled := true, mode := .shared, holders := PortSet.ofList ps, leaseLength := 0, leaseLeft := none, queue := q }

def disabledLock : LockRec := { LockRec.reset with enabled := false }

def message (source : Port) : Message := { source := source, session := 1, tag := 7, payload := [0xAAAA] }

def inbox (p : Port) (quota n : Nat) (s : State) : State :=
  s.onPort p fun r => { r with quota := quota, inbox := List.replicate n (message 0) }

def descriptor (p : Port) (serial : Byte) (job : CopyJob) (dest : Word) (length moved : Nat) (st : DescState) : Descriptor :=
  { requester := p, serial := serial, tag := 5, job := job, dest := dest, length := length, moved := moved, state := st }

def running (q : List Descriptor) (s : State) : State := s.setEngine { queue := q, mode := .running, requesting := true }

def fullFault : FaultRecord :=
  { kind := .guard, dir := .write, view := 0x8010, mem := some 0x3010, window := some 2, guard := some 7, more := true }

/-- Whether a command answers a next state with a property. -/
def gives (c : Instr) (s : State) (P : State → Bool) : Bool :=
  match exec c s with
  | .next t => P t
  | .fault _ => false
  | .refused _ => false

/-- Whether a step answers a next state with a property. -/
def steps (s : State) (P : State → Bool) : Bool :=
  match step s with
  | .next t => P t
  | .fault _ => false
  | .refused _ => false

/-! ### Well-formedness -/

theorem test_assigned_code_is_no_bad_command : (Instr.badCommand 0 0x0010).wellFormed = false := by decide

theorem test_assigned_code_is_refused :
    (match exec (.badCommand 0 0x0010) base with
      | .refused r => decide (r = .codeAssigned 0x0010)
      | .next _ => false
      | .fault _ => false) = true := by decide +kernel

theorem test_unassigned_words : (Instr.badCommand 0 0x0110).wellFormed = true ∧ (Instr.badCommand 0 0).wellFormed = true := by
  decide

/-! ### From reset into service -/

theorem test_reset_end : gives (.resetnNegated 3) State.reset (fun t =>
    t.isControl 3 && !t.isControl 0 && decide ((t.port 2).mode = .detached) && !t.resetAsserted) = true := by decide +kernel

theorem test_first_attach : gives (.attach 0) (mode 0 .detached (base.onPort 0 fun r => { r with session := 255 })) (fun t =>
    t.attached 0 && (t.port 0).session == 1 && (t.port 0).status == 0x0001 && (t.port 0).res[0] == 1 && (t.port 0).res[1] == 1
      && (t.port 1).peerUp == 1) = true := by decide +kernel

theorem test_word_does_not_spell_a_row : State.reset.withFetchWord 16 0x10 = State.reset := rfl

/-! ### Locks and the tick -/

/-- Chapter 10, an ACQUIRE and its status. -/
theorem test_acquire_queued : gives (.acquire 3) (args 3 [21, 2, 1, 50] (lock 21 (sharedBy [0] []) base)) (fun t =>
    (t.port 3).status == 0x0210 && (t.port 3).res[0] == 1 && (t.port 3).res[1] == 0
      && (t.lock 21).queue == [entry 3 .exclusive (some 50)]) = true := by decide +kernel

theorem test_acquire_bad_mode : gives (.acquire 3) (args 3 [21, 3, 1, 50] base) (fun t => (t.port 3).status == 0x1A10) = true := by
  decide +kernel

theorem test_lock_status : gives (.lockStatus 3)
    (args 3 [21] (lock 21 (sharedBy [0] [entry 3 .exclusive (some 50)]) base)) (fun t =>
      (t.port 3).res[0] == 0x0113 && (t.port 3).res[3] == 0x8203 && (t.port 3).res[4] == 50) = true := by decide +kernel

/-- Chapter 2, one tick on one lock. -/
def tickedLock : LockRec :=
  heldBy 0 40 (some 1) [entry 1 .exclusive (some 1), entry 2 .shared (some 5), entry 3 .shared none]

theorem test_tick : gives .leaseTick (lock 12 tickedLock base) (fun t =>
    t.lock 12 == { sharedBy [2, 3] [] with leaseLength := 40, leaseLeft := some 40 }
      && (t.port 1).waitEnd.has 12 && (t.port 0).revoked.has 12 && (t.port 2).granted.has 12 && (t.port 3).granted.has 12
      && !(t.port 1).granted.has 12 && t.freeEntries == 32) = true := by decide +kernel

theorem test_tick_with_one_more_wait : gives .leaseTick
    (lock 12 { tickedLock with queue := [entry 1 .exclusive (some 2), entry 2 .shared (some 5), entry 3 .shared none] } base)
    (fun t => t.lock 12 == heldBy 1 40 (some 40) [entry 2 .shared (some 4), entry 3 .shared none] && t.freeEntries == 30)
      = true := by decide +kernel

/-- Table 11-5 and Table 11-6, the locks at the port reset of P2. -/
def beforePortReset : State :=
  lock 12 (heldBy 1 0 none [entry 2 .shared (some 12), entry 0 .shared none])
    (lock 8 (sharedBy [0, 2] [entry 3 .exclusive (some 30)])
      (lock 3 (heldBy 2 15 (some 9) [entry 1 .exclusive none]) base))

theorem test_port_reset_locks : gives (.prstnAsserted 2) beforePortReset (fun t =>
    t.lock 3 == heldBy 1 15 (some 15) [] && t.lock 8 == sharedBy [0] [entry 3 .exclusive (some 30)]
      && t.lock 12 == heldBy 1 0 none [entry 0 .shared none] && (t.port 1).granted.has 3 && t.freeEntries == 30
      && (t.port 0).peerDown.has 2 && (t.port 3).peerDown.has 2 && decide ((t.port 2).mode = .down)) = true := by
  decide +kernel

theorem test_pstat : (mode 2 .detached (base.onPort 2 fun r => { r with session := 4 })).pstat 2 = 0x0004
    ∧ ({ mode 2 .detached (base.onPort 2 fun r => { r with session := 4 }) with control := some 1 } : State).pstat 2 = 0x0404 := by
  decide +kernel

/-! ### Windows -/

/-- Table 3-2, with L7 held SHARED by P1. -/
def table32 : State :=
  lock 7 (sharedBy [1] [])
    (window 0 { enabled := true, size := 12, viewBase := 0x8000, targetBase := 0x2000, rights := 0x07, guard := some 7,
                guardReads := false }
      (window 1 { enabled := true, size := 12, viewBase := 0x2000, targetBase := 0x2000, rights := 0x55, guard := some 7,
                  guardReads := true }
        (window 2 { enabled := false, size := 15, viewBase := 0, targetBase := 0, rights := 0xFF, guard := none,
                    guardReads := false }
          (window 3 { enabled := true, size := 13, viewBase := 0x8000, targetBase := 0x4000, rights := 0xFF, guard := none,
                      guardReads := false } base))))

theorem test_table_3_3 : table32.lookup 0x8123 = .hit 0 0x2123 ∧ table32.lookup 0x9123 = .hit 3 0x5123
    ∧ table32.lookup 0x2123 = .hit 1 0x2123 ∧ table32.lookup 0x1000 = .default 0x1000 ∧ table32.lookup 0xA000 = .unmapped := by
  decide +kernel

theorem test_checks_of_table_3_2 : table32.check 1 0x8123 .write = .refused .rights
    ∧ table32.check 1 0x8123 .read = .permitted 0x2123 ∧ table32.check 0 0x8123 .write = .refused .guard
    ∧ table32.check 1 0x2123 .read = .permitted 0x2123 ∧ table32.check 2 0x2123 .read = .refused .guard
    ∧ table32.check 3 0x2123 .write = .refused .rights ∧ table32.check 2 0x1000 .write = .permitted 0x1000 := by
  decide +kernel

theorem test_set_window : gives (.setWindow 0) (args 0 [2, 1, 8, 0x8000, 0x3000, 0xCF, 0x0107] base) (fun t =>
    t.window 2 == { enabled := true, size := 8, viewBase := 0x8000, targetBase := 0x3000, rights := 0xCF, guard := some 7,
                    guardReads := false }) = true := by decide +kernel

/-! ### The aperture -/

/-- Chapter 4, the advance in a small window. -/
def smallWindow : State :=
  window 5 { enabled := true, size := 4, viewBase := 0x4000, targetBase := 0x6100, rights := 0xC0, guard := none,
             guardReads := false } base

theorem test_wrap : smallWindow.advance .wrap 0x400E = 0x400F ∧ smallWindow.advance .wrap 0x400F = 0x4000
    ∧ smallWindow.advance .wrap 0x4000 = 0x4001 ∧ smallWindow.advance .step 0x400F = 0x4010
    ∧ smallWindow.advance .wrap 0x7FFF = 0 := by decide +kernel

theorem test_write_then_read : gives .apertureAccess (request 3 (.write 0x1234) 0x400F smallWindow) (fun t =>
    t.mem.read 0x610F == 0x1234 && t.mem == [(0x610F, 0x1234)] && t.position == .engine) = true := by decide +kernel

theorem test_take_fault : gives (.takeFault 1) (base.onPort 1 fun r => { r with fault := some fullFault }) (fun t =>
    (t.port 1).res == #v[0x0113, 0x8010, 0x3010, 0x8002, 0x8007, 0, 0, 0, 0, 0] && (t.port 1).fault == none) = true := by
  decide +kernel

/-- Chapter 4, one round of the arbiter. -/
theorem test_arbiter_round :
    (running [descriptor 0 1 (.fill 0) 0 4 0 .active] (request 2 .read 0 base)).choice = some (.port 2)
    ∧ ({ running [] (request 3 .read 0 (request 0 .read 0 base)) with position := .port 3 } : State).choice = some (.port 3)
    ∧ ({ running [] (request 0 .read 0 base) with position := .engine } : State).choice = some .engine
    ∧ ({ running [] (request 0 .read 0 base) with position := .port 0 } : State).choice = some (.port 0)
    ∧ ({ running [] base with position := .port 1 } : State).choice = some .engine := by decide +kernel

/-! ### Copies and messages -/

/-- Chapter 5, the second word of an overlapping copy. -/
theorem test_overlapping_copy : gives .copyWordMove
    { running [descriptor 0 1 (.copy 0x1000) 0x1001 4 1 .active] base with
      mem := [(0x1000, 0xA), (0x1001, 0xA), (0x1002, 0xC), (0x1003, 0xD), (0x1004, 0xE)] } (fun t =>
      t.mem == [(0x1000, 0xA), (0x1001, 0xA), (0x1002, 0xA), (0x1003, 0xD), (0x1004, 0xE)]) = true := by decide +kernel

/-- Chapter 11, the word move after the lease expiry and its record. -/
theorem test_copy_overtaken : gives .copyWordMove
    (running [descriptor 0 1 (.copy 0x1000) 0x8000 64 23 .active]
      (window 2 { enabled := true, size := 8, viewBase := 0x8000, targetBase := 0x3000, rights := 0xCF, guard := some 7,
                  guardReads := false } base)) (fun t =>
      gives (.takeCompletion 0) t fun u =>
        (u.port 0).res == #v[1, 5, 0x0203, 0x0017, 0x8017, 0, 0, 0, 0, 0] && u.mem == [] && u.engine == Engine.reset)
      = true := by decide +kernel

theorem test_fill_serial : gives (.fill 0) (args 0 [5, 0xBEEF, 0x100, 4096] base) (fun t =>
    (t.port 0).res[0] == 1 && (t.port 0).serial == 1 && t.choice == some .engine) = true := by decide +kernel

/-- Chapter 6, FULL before NO_SLOT. -/
def overcommitted : State := inbox 3 0 0 (inbox 2 8 6 (inbox 1 16 16 (inbox 0 16 10 base)))

theorem test_full_and_no_slot : gives (.send 2) (args 2 [0x3000] overcommitted) (fun t => (t.port 2).status == 0x0C40) = true
    ∧ gives (.send 2) (args 2 [0x1000] overcommitted) (fun t => (t.port 2).status == 0x0C40) = true
    ∧ gives (.send 1) (args 1 [0x2000] overcommitted) (fun t => (t.port 1).status == 0x0D40) = true := by decide +kernel

theorem test_receive : gives (.receive 2) (inbox 2 4 4 base) (fun t =>
    (t.port 2).res == #v[0x0107, 1, 0xAAAA, 0, 0, 0, 0, 0, 0, 3]) = true := by decide +kernel

theorem test_pool_status : gives (.poolStatus 1) overcommitted (fun t =>
    (t.port 1).command == some (.reading [32] [.messageSlots, .copySlots, .engineState, .tickDivider])
      && (t.port 1).res == Vector.replicate 10 0) = true := by decide +kernel

/-! ### The bus -/

theorem test_cycle_behind_a_waiting_access : gives (.registerWrite 1 .aaddr 5) (request 1 .read 0 base) (fun t =>
    t == request 1 .read 0 base) = true ∧ base.rdy 1 = some true ∧ (request 1 .read 0 base).rdy 1 = some false
      ∧ State.reset.rdy 1 = none := by decide +kernel

/-- A CMD cycle of port 1 still stretched, ended early or not, and cycles held behind it. -/
def stretched (stage : CmdStage) (ended : Bool) (held : List Instr) (s : State) : State :=
  s.onPort 1 fun r => { r with command := some stage, cycleEnded := ended, held := held }

/-- A command posted at port 1 with its CMD cycle still stretched. -/
def posted (ended : Bool) (held : List Instr) (s : State) : State := stretched .posted ended held s

/-- A POOL_STATUS of port 1 with its last two values left to read. -/
def reading (ended : Bool) (held : List Instr) (s : State) : State :=
  stretched (.reading [32, 7, 8] [.engineState, .tickDivider]) ended held s

/-- R171, R181: a command leaves its cycle stretched with RDY low. -/
theorem test_command_stretches_its_cycle : gives (.takeFault 1) base (fun t =>
    t.rdy 1 == some false && t.rdy 0 == some true && (t.port 1).status == 0x1452 && t.readWord 1 .cmdStatus == none) = true := by
  decide +kernel

/-- R171: a step on an empty queue answers the cycle. -/
theorem test_idle_step_answers : steps (posted false [] base) (fun t => t == base && t.rdy 1 == some true) = true := by
  decide +kernel

/-- R81, R171: the start of the port's next cycle shows that the command's has been answered. -/
theorem test_next_cycle_follows_the_answer : gives (.registerWrite 1 .aaddr 5) (posted false [] base) (fun t =>
    t == base.onPort 1 fun r => { r with aaddr := 5 }) = true := by decide +kernel

/-- R176: the cycles held behind a command ended early are taken when it is answered, up to the next one that stretches. -/
theorem test_held_cycles_follow_the_answer :
    steps (posted true [.registerWrite 1 .aaddr 5, .detach 1, .evenSet 1 3] base) (fun t =>
      (t.port 1).aaddr == 5 && decide ((t.port 1).mode = .detached) && (t.port 1).held == [.evenSet 1 3]
        && (t.port 1).command == some .posted && (t.port 1).cycleEnded) = true := by decide +kernel

/-- R176: a cycle held behind an access is taken in the event that answers the access, whose data are lost. -/
theorem test_held_cycle_follows_the_access : gives .apertureAccess
    ((request 1 .read 0 base).onPort 1 fun r => { r with held := [.registerWrite 1 .aaddr 5] }) (fun t =>
      t == { base.onPort 1 fun r => { r with aaddr := 5, answer := .lost } with position := .port 2 }) = true := by decide +kernel

/-- R176: PRSTn abandons the stretched command, its later reads and the held cycles. -/
theorem test_port_reset_abandons_the_command :
    gives (.prstnAsserted 1) (reading true [.attach 1] (mode 1 .detached base)) (fun t =>
      !(t.port 1).busy && (t.port 1).status == 0 && t.rdy 1 == none) = true := by decide +kernel

/-- R177: a later read of POOL_STATUS shows the block as it then stands, the port's session having ended, and posts nothing. -/
theorem test_pool_value_read_later :
    steps (stretched (.reading [32] [.messageSlots]) false [] (mode 1 .detached (inbox 2 4 4 base))) (fun t =>
      (t.port 1).command == some (.reading [32, 28] []) && (t.port 1).res == Vector.replicate 10 0) = true := by decide +kernel

/-- R174, R177: the last read made, the result is posted. -/
theorem test_pool_status_posts_at_its_end :
    steps (stretched (.reading [32, 28, 8, 0, 63] []) false [] base) (fun t =>
      (t.port 1).res == #v[32, 28, 8, 0, 63, 0, 0, 0, 0, 0] && (t.port 1).status == 0x0060
        && (t.port 1).command == some .posted) = true := by decide +kernel

/-- The start of the port's next cycle: the reads that are left are made, the result is posted and the cycle answered. -/
theorem test_next_cycle_ends_pool_status : gives (.registerWrite 1 .aaddr 5) (reading false [] base) (fun t =>
    (t.port 1).res == #v[32, 7, 8, 0, 63, 0, 0, 0, 0, 0] && (t.port 1).status == 0x0060 && (t.port 1).command == none
      && (t.port 1).aaddr == 5) = true := by decide +kernel

theorem test_window_map : WindowWord.at 0 = .cmdStatus ∧ WindowWord.at 0x08 = .plain (.arg 7) ∧ WindowWord.at 0x09 = .plain (.res 0)
    ∧ WindowWord.at 0x12 = .plain (.res 9) ∧ WindowWord.at 0x17 = .plain .aaddr ∧ WindowWord.at 0x1A = .plain .pstat
    ∧ WindowWord.at 0x1B = .plain (.reserved 0) ∧ WindowWord.at 0x1F = .plain (.reserved 4) := by decide

/-! ### Witnesses: the hypotheses of every statement, clause by clause -/

theorem witness_StepRunsTheFrontCommand :
    ({ base with pending := [.leaseTick, .attach 0] } : State).pending = .leaseTick :: [.attach 0] := rfl

theorem witness_IdleStepIsOneClockPeriod :
    (State.reset.pending = [] ∧ State.reset.readyCycle = none ∧ State.reset.resetAsserted = true)
    ∧ (base.pending = [] ∧ ({ base with count := 16382 } : State).readyCycle = none ∧ base.resetAsserted = false
        ∧ 16382 + 1 < (base.divider.toNat + 1) * 256)
    ∧ ({ base with count := 16383 } : State).readyCycle = none ∧ (base.divider.toNat + 1) * 256 ≤ 16383 + 1 := by
  decide +kernel

theorem witness_WellFormedCommandsNeverStop :
    (Instr.badCommand 3 0xFFFF).wellFormed = true ∧ base.BusLaw
    ∧ (base.onPort 1 fun r => { r with request := some { kind := .read, view := 0, session := 1 }, held := [.detach 1] }).BusLaw
    ∧ ∀ c, ({ base with pending := [.badCommand 0 0x0100] } : State).pending.head? = some c → c.wellFormed = true := by
  refine ⟨by decide +kernel, by decide +kernel, by decide +kernel, ?_⟩
  rintro c h
  cases h
  decide

theorem witness_CommandCodesRoundTrip : (Instr.attach 0).code? = some 0x01 ∧ (Instr.attach 0).port? = some 0
    ∧ (Instr.poolStatus 3).code? = some 0x60 ∧ (Instr.poolStatus 3).port? = some 3 := by decide

theorem witness_ChipResetEndSamplesStraps : base.resetAsserted = false ∧ State.reset.resetAsserted = true := by decide

/-- A state in which every block has something: locks held and waited for, a window, written memory, a copy under way behind a
port's waiting access with a cycle held behind it, a record, messages, event bits. -/
def busy : State :=
  { running [descriptor 0 2 (.copy 0x1000) 0x8000 64 23 .active, descriptor 1 1 (.fill 7) 0 1 0 .queued]
      (window 2 { enabled := true, size := 8, viewBase := 0x8000, targetBase := 0x3000, rights := 0xCF, guard := some 7,
                  guardReads := false }
        (inbox 2 4 4 (lock 12 tickedLock (base.onPort 1 fun r =>
          { r with
            request := some { kind := .read, view := 0, session := 1 }, held := [.detach 1], peerUp := 1, enables := 0x7F
            fault := some fullFault
            completions := [{ serial := 0, tag := 0, kind := .copy, status := .done, moved := 3 }] })))) with
    mem := [(0, 1), (0x7FFF, 2)], count := 16383 }

/-- Every law that a statement says each step keeps holds in `busy`, and a step from there answers a next state. -/
theorem witness_laws_of_busy : busy.LocksLawful ∧ busy.PoolLaw ∧ busy.WindowsLawful ∧ busy.MemLaw ∧ busy.CopiesLawful
    ∧ busy.MessagesLawful ∧ busy.AbsentBare ∧ busy.ResetLaw ∧ busy.SessionLaw ∧ busy.PeerLaw ∧ busy.BusLaw ∧ busy.TimerLaw
    ∧ steps busy (fun _ => true) = true := by
  refine ⟨?_, ?_, ?_, ?_, ?_, ?_, ?_, ?_, ?_, ?_, ?_, ?_, ?_⟩ <;> decide +kernel

theorem witness_MemoryChangesOnlyByPermittedWrites :
    (request 3 (.write 0x1234) 0x7FFF base).MemLaw
    ∧ steps { request 3 (.write 0x1234) 0x7FFF base with pending := [.apertureAccess] } (fun t => t.mem.read 0x7FFF != 0) = true
    ∧ steps { running [descriptor 0 1 (.fill 9) 0 4 3 .active] base with pending := [.copyWordMove] }
        (fun t => t.mem.read 3 != 0) = true := by decide +kernel

theorem witness_CommandsNeedASessionAndPermission :
    ((Instr.adataRead 3).port? = some 3 ∧ (Instr.adataRead 3).wellFormed = true ∧ ((mode 3 .down base).port 3).mode = .down)
    ∧ ((Instr.detach 2).code? = some 0x02 ∧ ((mode 2 .detached base).port 2).busy = false
        ∧ ((mode 2 .detached base).port 2).mode = .detached)
    ∧ (Instr.setQuota 3).code? = some 0x48 ∧ (base.port 3).busy = false ∧ (base.port 3).mode = .attached
        ∧ reservedCode 0x48 = true ∧ base.isControl 3 = false := by decide +kernel

theorem witness_RefusedCommandsOnlyPost : (Instr.acquire 1).port? = some 1 ∧ (Instr.acquire 1).code? = some 0x10
    ∧ (args 1 [12, 1] (lock 12 tickedLock base)).Ready 1
    ∧ gives (.acquire 2) (args 2 [5, 1] (lock 5 (heldBy 1 0 none []) base))
        (fun t => decide ((t.port 2).command = some .posted ∧ ((t.port 2).status.extractLsb' 8 8).toNat = 3)) = true
    ∧ gives (.acquire 1) (args 1 [12, 1] (lock 12 tickedLock base))
        (fun t => decide (((t.port 1).status.extractLsb' 8 8).toNat = 9)) = true := by decide +kernel

theorem witness_BadCommandPosts : (0 : Word) = 0 ∧ 0x00FF < (0x0100 : Word).toNat ∧ (mode 1 .detached base).Ready 1 ∧ base.Ready 1
    ∧ decodeCmd 1 0x0061 = .badCommand 1 0x0061 ∧ assignedCode 0x0060 = true := by decide +kernel

/-! Locks. -/

theorem witness_AcquireGrantsAtOnce :
    (let s := args 3 [31, 2, 0, 1023] base;
      s.CanCommand 3 ∧ (s.arg 3 0).toNat = (31 : LockNo).val ∧ s.arg 3 1 = ReqMode.exclusive.code.setWidth 16 ∧ s.arg 3 2 = 0
        ∧ (s.arg 3 3).toNat ≤ 1023 ∧ (s.lock 31).enabled = true ∧ (s.lock 31).heldBy 3 = false ∧ (s.lock 31).queuedBy 3 = false
        ∧ (s.lock 31).mode = .free)
    ∧ (let s := args 3 [0, 1, 1, 0] (lock 0 (sharedBy [0, 1] []) base);
      s.CanCommand 3 ∧ (s.arg 3 0).toNat = (0 : LockNo).val ∧ s.arg 3 1 = ReqMode.shared.code.setWidth 16 ∧ s.arg 3 2 = 1
        ∧ (s.lock 0).enabled = true ∧ (s.lock 0).heldBy 3 = false ∧ (s.lock 0).queuedBy 3 = false
        ∧ (s.lock 0).mode = .shared ∧ (s.lock 0).queue = []) := by decide +kernel

/-- A lock table with all 32 waiter entries in queues. -/
def noEntries : State :=
  { base with locks := Vector.ofFn fun l =>
      if l.val < 10 then heldBy 0 0 none [entry 1 .exclusive none, entry 2 .exclusive none, entry 3 .exclusive none]
      else if l.val = 10 then heldBy 0 0 none [entry 1 .exclusive none, entry 2 .exclusive none]
      else if l.val = 11 then heldBy 0 0 none [] else LockRec.reset }

theorem witness_AcquireWaitsOrIsRefused :
    (let s := args 1 [11, 1, 0, 1023] noEntries;
      s.CanCommand 1 ∧ (s.lock 11).Lawful ∧ (s.arg 1 0).toNat = (11 : LockNo).val
        ∧ s.arg 1 1 = ReqMode.shared.code.setWidth 16 ∧ (s.arg 1 3).toNat ≤ 1023 ∧ (s.lock 11).enabled = true
        ∧ (s.lock 11).heldBy 1 = false ∧ (s.lock 11).queuedBy 1 = false ∧ (s.lock 11).mode ≠ .free
        ∧ ((s.lock 11).mode = .shared → ReqMode.shared = .shared → (s.lock 11).queue ≠ []) ∧ s.arg 1 2 = 0)
    ∧ (let s := args 1 [11, 1, 1, 0] noEntries;
      s.arg 1 2 = 1 ∧ s.freeEntries = 0)
    ∧ (let s := args 3 [21, 1, 1, 0] (lock 21 (sharedBy [0] [entry 1 .exclusive none]) base);
      s.CanCommand 3 ∧ (s.lock 21).Lawful ∧ (s.arg 3 0).toNat = (21 : LockNo).val
        ∧ s.arg 3 1 = ReqMode.shared.code.setWidth 16 ∧ (s.lock 21).heldBy 3 = false ∧ (s.lock 21).queuedBy 3 = false
        ∧ (s.lock 21).mode ≠ .free ∧ (s.lock 21).queue ≠ [] ∧ s.arg 3 2 = 1 ∧ s.freeEntries ≠ 0) := by decide +kernel

theorem witness_AcquireChecksInOrder :
    (let s := args 0 [32] base; s.CanCommand 0 ∧ 32 ≤ (s.arg 0 0).toNat)
    ∧ (let s := args 0 [31] (lock 31 disabledLock base); (s.arg 0 0).toNat = (31 : LockNo).val ∧ (s.lock 31).enabled = false)
    ∧ (let s := args 0 [31, 3, 0, 0] base; (s.lock 31).enabled = true ∧ s.arg 0 1 ≠ 1 ∧ s.arg 0 1 ≠ 2)
    ∧ (let s := args 0 [31, 1, 2, 0] base; s.arg 0 2 ≠ 0 ∧ s.arg 0 2 ≠ 1)
    ∧ (let s := args 0 [31, 1, 0, 1024] base; 1023 < (s.arg 0 3).toNat)
    ∧ (let s := args 0 [12, 2, 1, 1023] (lock 12 tickedLock base);
      (s.lock 12).enabled = true ∧ s.arg 0 1 = 2 ∧ s.arg 0 2 = 1 ∧ (s.arg 0 3).toNat ≤ 1023 ∧ (s.lock 12).heldBy 0 = true)
    ∧ (let s := args 3 [12, 1, 0, 0] (lock 12 tickedLock base);
      s.arg 3 1 = 1 ∧ s.arg 3 2 = 0 ∧ (s.lock 12).heldBy 3 = false ∧ (s.lock 12).queuedBy 3 = true) := by decide +kernel

theorem witness_ReevaluationGrantsOneBatch :
    (let r := { LockRec.reset with queue := [entry 1 .exclusive none, entry 2 .shared none] };
      r.queue = entry 1 .exclusive none :: [entry 2 .shared none] ∧ r.mode = .free)
    ∧ (let r := sharedBy [0] [entry 1 .shared none, entry 2 .shared none, entry 3 .exclusive none];
      r.queue = entry 1 .shared none :: [entry 2 .shared none] ++ [entry 3 .exclusive none] ∧ r.mode ≠ .exclusive
        ∧ ∀ x ∈ entry 1 .shared none :: [entry 2 .shared none], x.mode = .shared)
    ∧ (LockRec.reset.queue = [] ∧ tickedLock.mode = .exclusive)
    ∧ (sharedBy [0] [entry 3 .exclusive none]).mode = .shared := by decide

theorem witness_ReleaseByHolder :
    (let s := args 0 [12] (lock 12 tickedLock base);
      s.CanCommand 0 ∧ (s.arg 0 0).toNat = (12 : LockNo).val ∧ (s.lock 12).heldBy 0 = true)
    ∧ (let s := args 1 [31] (lock 31 (sharedBy [0, 1] []) base);
      s.CanCommand 1 ∧ (s.arg 1 0).toNat = (31 : LockNo).val ∧ (s.lock 31).heldBy 1 = true) := by decide +kernel

theorem witness_ReleaseAndRenewByOthers :
    (let s := args 1 [32] base; s.CanCommand 1 ∧ 32 ≤ (s.arg 1 0).toNat)
    ∧ (let s := args 1 [31] (base.onPort 1 fun r => { r with revoked := 0x80000000 });
      (s.arg 1 0).toNat = (31 : LockNo).val ∧ (s.lock 31).heldBy 1 = false ∧ (s.port 1).revoked.has 31 = true)
    ∧ (let s := args 1 [0] base;
      (s.arg 1 0).toNat = (0 : LockNo).val ∧ (s.lock 0).heldBy 1 = false ∧ (s.port 1).revoked.has 0 = false) := by decide +kernel

theorem witness_RenewReloadsTheLease :
    (let s := args 0 [12] (lock 12 tickedLock base);
      s.CanCommand 0 ∧ (s.arg 0 0).toNat = (12 : LockNo).val ∧ (s.lock 12).heldBy 0 = true ∧ (s.lock 12).leaseLength ≠ 0)
    ∧ (let s := args 1 [31] (lock 31 (sharedBy [0, 1] []) base);
      s.CanCommand 1 ∧ (s.lock 31).heldBy 1 = true ∧ (s.lock 31).leaseLength = 0) := by decide +kernel

theorem witness_WithdrawTakesBackTheRequest :
    (let s := args 1 [32] base; s.CanCommand 1 ∧ 32 ≤ (s.arg 1 0).toNat)
    ∧ (let s := args 1 [12] (lock 12 tickedLock base);
      (s.arg 1 0).toNat = (12 : LockNo).val ∧ (s.lock 12).queuedBy 1 = true)
    ∧ (let s := args 0 [12] (lock 12 tickedLock base); (s.lock 12).queuedBy 0 = false ∧ (s.lock 12).heldBy 0 = true)
    ∧ (let s := args 0 [31] base; (s.lock 31).queuedBy 0 = false ∧ (s.lock 31).heldBy 0 = false) := by decide +kernel

theorem witness_LockStatusReportsTheLock :
    (let s := args 1 [32] base; s.CanCommand 1 ∧ 32 ≤ (s.arg 1 0).toNat)
    ∧ (let s := args 1 [12] (lock 12 tickedLock base);
      (s.arg 1 0).toNat = (12 : LockNo).val ∧ (s.lock 12).Lawful
        ∧ (s.lock 12).queue[(2 : Fin 3).val]? = some (entry 3 .shared none))
    ∧ (let s := args 1 [31] base; (s.lock 31).queue[(0 : Fin 3).val]? = none) := by decide +kernel

theorem witness_SetLockWritesAFreeLock :
    (let s := args 0 [32] base; s.CanCommand 0 ∧ s.isControl 0 = true ∧ 32 ≤ (s.arg 0 0).toNat)
    ∧ (let s := args 0 [31, 2, 0] base; (s.arg 0 0).toNat = (31 : LockNo).val ∧ 1 < (s.arg 0 1).toNat)
    ∧ (let s := args 0 [31, 1, 1024] base; 1023 < (s.arg 0 2).toNat)
    ∧ (let s := args 0 [12, 0, 1023] (lock 12 tickedLock base);
      s.arg 0 1 = (if false then 1 else 0) ∧ (s.arg 0 2).toNat ≤ 1023 ∧ (s.lock 12).holders ≠ 0)
    ∧ (let s := args 0 [31, 1, 1023] base;
      s.arg 0 1 = (if true then 1 else 0) ∧ (s.arg 0 2).toNat ≤ 1023 ∧ (s.lock 31).holders = 0 ∧ (s.lock 31).queue = []) := by
  decide +kernel

theorem witness_BreakRevokesAndFlushes :
    (let s := args 0 [32] base; s.CanCommand 0 ∧ s.isControl 0 = true ∧ 32 ≤ (s.arg 0 0).toNat)
    ∧ (let s := args 0 [31, 2] base; (s.arg 0 0).toNat = (31 : LockNo).val ∧ 1 < (s.arg 0 1).toNat)
    ∧ (args 0 [12, 1] (lock 12 tickedLock base)).arg 0 1 = 1 ∧ (args 0 [12, 0] (lock 12 tickedLock base)).arg 0 1 = 0 := by
  decide +kernel

theorem witness_ConfigurationCommandsWriteTheirWords :
    base.CanCommand 0 ∧ base.isControl 0 = true
    ∧ 255 < ((args 0 [256] base).arg 0 0).toNat ∧ ((args 0 [255] base).arg 0 0).toNat ≤ 255
    ∧ 256 ≤ ((args 0 [256] base).arg 0 0).toNat ∧ ((args 0 [255] base).arg 0 0).toNat < 256
    ∧ 3 < ((args 0 [4, 0] base).arg 0 0).toNat ∧ 32 < ((args 0 [3, 33] base).arg 0 1).toNat
    ∧ (let s := args 0 [3, 32] base;
      (s.arg 0 0).toNat = (3 : Port).val ∧ (s.arg 0 1).toNat ≤ 32 ∧ (s.port 3).inbox.length ≤ (s.arg 0 1).toNat)
    ∧ (let s := args 0 [2, 3] (inbox 2 4 4 base);
      (s.arg 0 0).toNat = (2 : Port).val ∧ (s.arg 0 1).toNat < (s.port 2).inbox.length) := by decide +kernel

theorem witness_LeaseTickCountsEveryLock : State.reset.LocksLawful ∧ State.reset.resetAsserted = true
    ∧ (lock 12 tickedLock base).LocksLawful ∧ base.resetAsserted = false := by
  refine ⟨?_, ?_, ?_, ?_⟩ <;> decide +kernel

theorem witness_ExpiriesEndWaitsAndLeases :
    (let s := lock 12 tickedLock base;
      (s.lock 12).Lawful ∧ (∃ e ∈ (s.lock 12).queue, e.port = 1 ∧ e.wait = some 1)
        ∧ (∀ e ∈ (s.lock 12).queue, e.port = 2 → e.wait ≠ some 1) ∧ (s.lock 12).leaseLeft = some 1)
    ∧ (base.lock 31).Lawful ∧ (base.lock 31).leaseLeft ≠ some 1 := by decide +kernel

/-! Windows and the aperture. -/

theorem witness_LookupTakesTheLowestWindow :
    (let s := table32;
      s.WindowsLawful ∧ (s.window 3).enabled = true ∧ (s.window 3).viewBase.toNat ≤ (0x9FFF : Word).toNat
        ∧ (0x9FFF : Word).toNat < (s.window 3).viewBase.toNat + 2 ^ (s.window 3).size
        ∧ ∀ j : WindowNo, j < 3 → ¬((s.window j).enabled = true ∧ (s.window j).viewBase.toNat ≤ (0x9FFF : Word).toNat
          ∧ (0x9FFF : Word).toNat < (s.window j).viewBase.toNat + 2 ^ (s.window j).size))
    ∧ base.WindowsLawful ∧ (∀ j : WindowNo, (base.window j).enabled = false)
    ∧ (0x7FFF : Word).toNat < 0x8000 ∧ 0x8000 ≤ (0x8000 : Word).toNat := by decide +kernel

theorem witness_ChecksInOrder :
    table32.lookup 0xA000 = .unmapped ∧ table32.lookup 0x7FFF = .default 0x7FFF ∧ table32.lookup 0x8FFF = .hit 0 0x2FFF
    ∧ (table32.window 0).rights.getLsbD (2 * 1 + 1) = false ∧ (table32.window 0).rights.getLsbD (2 * 0 + 1) = true
    ∧ (table32.window 0).guard = some 7 ∧ table32.lookup 0x9123 = .hit 3 0x5123 ∧ (table32.window 3).guard = none := by
  decide +kernel

theorem witness_ProbeAndGetWindowOnlyReport :
    base.CanCommand 2 ∧ 3 < ((args 2 [0, 4, 0] base).arg 2 1).toNat ∧ 1 < ((args 2 [0, 3, 2] base).arg 2 2).toNat
    ∧ (let s := args 2 [0x8123, 3, 1] table32;
      s.CanCommand 2 ∧ (s.arg 2 1).toNat = (3 : Port).val ∧ s.arg 2 2 = Dir.write.code.setWidth 16
        ∧ s.lookup (s.arg 2 0) = .hit 0 0x2123)
    ∧ (args 2 [0xA000, 0, 0] table32).lookup ((args 2 [0xA000, 0, 0] table32).arg 2 0) = .unmapped
    ∧ (args 2 [0x7FFF, 0, 0] table32).lookup ((args 2 [0x7FFF, 0, 0] table32).arg 2 0) = .default 0x7FFF
    ∧ 16 ≤ ((args 2 [16] base).arg 2 0).toNat ∧ ((args 2 [15] base).arg 2 0).toNat = (15 : WindowNo).val := by decide +kernel

theorem witness_SetWindowReplacesTheRecord :
    (let s := args 0 [16, 1, 4, 0, 0, 0, 0] base; s.CanCommand 0 ∧ s.isControl 0 = true ∧ 16 ≤ (s.arg 0 0).toNat)
    ∧ 1 < ((args 0 [0, 2] base).arg 0 1).toNat ∧ ((args 0 [0, 1, 3] base).arg 0 2).toNat < 4
    ∧ 15 < ((args 0 [0, 1, 16] base).arg 0 2).toNat ∧ ((args 0 [0, 1, 4, 8] base).arg 0 3).toNat % 2 ^ 4 ≠ 0
    ∧ 0x8000 ≤ ((args 0 [0, 1, 4, 0, 0x8000] base).arg 0 4).toNat ∧ ((args 0 [0, 1, 4, 0, 8] base).arg 0 4).toNat % 2 ^ 4 ≠ 0
    ∧ 256 ≤ ((args 0 [0, 1, 4, 0, 0, 256] base).arg 0 5).toNat ∧ 1024 ≤ ((args 0 [0, 1, 4, 0, 0, 0, 1024] base).arg 0 6).toNat
    ∧ (let s := args 0 [0, 1, 4, 0, 0, 0, 0x0120] base;
      (s.arg 0 6).getLsbD 8 = true ∧ 32 ≤ (s.arg 0 6).toNat % 256)
    ∧ (let s := args 0 [15, 1, 15, 0x8000, 0, 255, 0x031F] base;
      s.CanCommand 0 ∧ s.isControl 0 = true ∧ (s.arg 0 0).toNat = (15 : WindowNo).val ∧ s.arg 0 1 = (if true then 1 else 0)
        ∧ (s.arg 0 2).toNat = 15 ∧ (s.arg 0 3).toNat % 2 ^ 15 = 0 ∧ (s.arg 0 4).toNat < 0x8000
        ∧ (s.arg 0 4).toNat % 2 ^ 15 = 0 ∧ (s.arg 0 5).toNat < 256 ∧ (s.arg 0 6).toNat < 1024
        ∧ ((s.arg 0 6).getLsbD 8 = true → (s.arg 0 6).toNat % 256 < 32)) := by decide +kernel

theorem witness_AdataCyclesPlaceRequests :
    (base.port 3).busy = false ∧ (base.port 3).cycleEnded = false ∧ base.attached 3 = true
    ∧ ((mode 3 .detached base).port 3).busy = false ∧ ((mode 3 .detached base).port 3).mode = .detached := by decide +kernel

theorem witness_ArbiterGrantsInRotation :
    ({ running [descriptor 0 1 (.fill 0) 0 4 0 .active] (request 3 .read 0 base) with position := .engine } : State).choice
      = some .engine
    ∧ ({ running [] (request 3 .read 0 base) with position := .engine } : State).waits (.port 3) = true
    ∧ Requester.port 3 ≠ .engine ∧ base.choice = none := by decide +kernel

theorem witness_ApertureAccessesAreServed :
    (let s := request 3 (.write 5) 0x7FFF base;
      s.MemLaw ∧ s.choice = some (.port 3) ∧ (s.port 3).request = some { kind := .write 5, view := 0x7FFF, session := 1 }
        ∧ s.attached 3 = true ∧ (s.port 3).session = 1 ∧ (s.port 3).held = [] ∧ (s.port 3).cycleEnded = false
        ∧ s.check 3 0x7FFF .write = .permitted 0x7FFF)
    ∧ (let s := request 0 .read 0x8000 base;
      s.choice = some (.port 0) ∧ s.check 0 0x8000 .read = .refused .unmapped) := by decide +kernel

theorem witness_AddressAdvances : table32.WindowsLawful ∧ table32.lookup 0x7FFF = .default 0x7FFF
    ∧ table32.lookup 0x8FFF = .hit 0 0x2FFF := by decide +kernel

theorem witness_EndedSessionsAccessesAreNotServed :
    (let s := request 3 .read 0 (mode 3 .detached base);
      s.choice = some (.port 3) ∧ (s.port 3).request = some { kind := .read, view := 0, session := 1 }
        ∧ s.attached 3 = false ∧ (s.port 3).held = [] ∧ (s.port 3).cycleEnded = false)
    ∧ (let s := request 0 (.write 1) 0 (base.onPort 0 fun r => { r with session := 2 });
      s.choice = some (.port 0) ∧ (s.port 0).session ≠ 1) := by decide +kernel

theorem witness_TakeFaultEmptiesTheRecord : base.CanCommand 1 ∧ (base.port 1).fault = none
    ∧ ((base.onPort 1 fun r => { r with fault := some fullFault }).port 1).fault = some fullFault
    ∧ (base.onPort 1 fun r => { r with fault := some fullFault }).CanCommand 1 := by decide +kernel

/-! The register window and the bus. -/

theorem witness_RegisterWrites : base.Ready 3 ∧ (2 : Word) = AdvanceMode.wrap.code.setWidth 16 ∧ 2 < (3 : Word).toNat
    ∧ base.attached 3 = true ∧ (mode 3 .detached base).Ready 3 ∧ (mode 3 .detached base).attached 3 = false := by decide +kernel

theorem witness_EarlyEndedCyclesHoldTheNext :
    (let s := posted true [] base;
      (Instr.send 1).port? = some 1 ∧ (Instr.send 1).wellFormed = true ∧ (s.port 1).mode ≠ .down ∧ (s.port 1).busy = true
        ∧ (s.port 1).cycleEnded = true)
    ∧ (let s := reading false [.detach 1] base;
      (s.port 1).busy = true ∧ (s.port 1).cycleEnded = false ∧ ((s.caughtUp 1).port 1).busy = false)
    ∧ (let s := posted false [.adataRead 1] base; ((s.caughtUp 1).port 1).busy = true)
    ∧ ((request 1 .read 0 base).port 1).request ≠ none
    ∧ (let s := posted true [] base;
      s.pending = [] ∧ (s.port 1).request = none ∧ (s.port 1).command = some .posted ∧ (s.port 1).held = []
        ∧ ∀ q, q < 1 → (s.port q).answerable = false)
    ∧ ((Instr.badCommand 1 0x0100).port? = some 1 ∧ (Instr.badCommand 1 0x0100).wellFormed = true
        ∧ (base.port 1).mode ≠ .down ∧ (base.port 1).request = none ∧ (base.port 1).command = none)
    ∧ (request 1 .read 0 base).choice = some (.port 1)
    ∧ ((request 1 .read 0 base).port 1).request = some { kind := .read, view := 0, session := 1 } := by decide +kernel

/-! Copies. -/

theorem witness_CopyAndFillAreCheckedAndAccepted :
    (let s := args 1 [256, 0, 0, 1] base; s.CanCommand 1 ∧ 255 < (s.arg 1 0).toNat)
    ∧ ((args 1 [0, 0, 0, 0] base).arg 1 3).toNat = 0 ∧ 4096 < ((args 1 [0, 0, 0, 4097] base).arg 1 3).toNat
    ∧ (let s := args 1 [255, 0, 0, 4096]
        (running (List.replicate 4 (descriptor 1 1 (.fill 0) 0 4 0 .queued)) base);
      (s.arg 1 0).toNat ≤ 255 ∧ (s.arg 1 3).toNat ≤ 4096 ∧ 4 ≤ s.copyCount 1)
    ∧ (let s := args 1 [0, 0, 0, 1]
        (running (List.replicate 4 (descriptor 0 1 (.fill 0) 0 4 0 .queued) ++ List.replicate 4 (descriptor 2 1 (.fill 0) 0 4 0 .queued))
          base);
      1 ≤ (s.arg 1 3).toNat ∧ s.copyCount 1 < 4 ∧ 8 ≤ s.engine.queue.length)
    ∧ (let s := args 1 [0, 0, 0, 1] base;
      s.CanCommand 1 ∧ s.copyCount 1 < 4 ∧ s.engine.queue.length < 8 ∧ s.engine.Lawful) := by decide +kernel

theorem witness_WordMovesCopyOneWord :
    (let d := descriptor 0 1 (.copy 0x1000) 0x7FFF 4 0 .active;
     let s := running [d] base;
      s.MemLaw ∧ s.engine.Lawful ∧ s.choice = some .engine ∧ s.engine.queue = d :: []
        ∧ s.check d.requester (d.dest + BitVec.ofNat 16 d.moved) .write = .permitted 0x7FFF
        ∧ s.check d.requester (0x1000 + BitVec.ofNat 16 d.moved) .read = .permitted 0x1000 ∧ d.moved + 1 < d.length)
    ∧ (let d := descriptor 3 255 (.fill 7) 0 1 0 .active;
     let s := running [d] base;
      s.MemLaw ∧ s.engine.Lawful ∧ s.choice = some .engine ∧ s.engine.queue = d :: []
        ∧ s.check d.requester (d.dest + BitVec.ofNat 16 d.moved) .write = .permitted 0 ∧ d.moved + 1 = d.length) := by
  decide +kernel

theorem witness_RefusedWordsEndTheDescriptor :
    (let d := descriptor 0 1 (.copy 0x7FFF) 0 4 1 .active;
     let s := running [d] base;
      s.choice = some .engine ∧ s.engine.queue = d :: [] ∧ d.job = .copy 0x7FFF
        ∧ s.check d.requester (0x7FFF + BitVec.ofNat 16 d.moved) .read = .refused .unmapped)
    ∧ (let d := descriptor 0 1 (.fill 0) 0x8000 4 0 .active;
     let s := running [d] base;
      s.choice = some .engine ∧ (∀ source, d.job = .copy source → ∃ a,
          s.check d.requester (source + BitVec.ofNat 16 d.moved) .read = .permitted a)
        ∧ s.check d.requester (d.dest + BitVec.ofNat 16 d.moved) .write = .refused .unmapped) := by
  refine ⟨by decide +kernel, by decide +kernel, ?_, by decide +kernel⟩
  intro source h
  cases h

theorem witness_CancelEndsOwnDescriptor :
    (let s := args 1 [256] base; s.CanCommand 1 ∧ 255 < (s.arg 1 0).toNat)
    ∧ (let d := descriptor 1 255 (.fill 0) 0 4 0 .queued;
      let a := descriptor 0 255 (.fill 0) 0 4 0 .active;
      let s := args 1 [255] (running [a, d, d] base);
      (s.arg 1 0).toNat = (255 : Byte).toNat ∧ s.engine.queue = [a] ++ d :: [d] ∧ d.requester = 1 ∧ d.serial = 255
        ∧ ∀ x ∈ [a], ¬(x.requester = 1 ∧ x.serial = 255))
    ∧ (let s := args 1 [0] busy;
      (∀ x ∈ s.engine.queue, ¬(x.requester = 1 ∧ x.serial = 0)) ∧ ∃ c ∈ (s.port 1).completions, c.serial = 0)
    ∧ ∀ c ∈ (base.port 1).completions, c.serial ≠ 0 := by decide +kernel

theorem witness_TakeCompletionTakesTheOldest : base.CanCommand 1 ∧ (base.port 1).completions = []
    ∧ (busy.port 1).completions = { serial := 0, tag := 0, kind := .copy, status := .done, moved := 3 } :: [] := by decide +kernel

theorem witness_EngineStateChanges : base.CanCommand 0 ∧ base.isControl 0 = true ∧ base.engine.mode ≠ .paused
    ∧ (base.setEngine { Engine.reset with mode := .paused }).engine.mode = .paused
    ∧ busy.engine.mode ≠ .paused ∧ busy.engine.queue ≠ [] := by decide +kernel

/-! Messages, sessions, events. -/

theorem witness_SendDeliversOrIsRefused :
    4 ≤ (((args 1 [0x4000] base).arg 1 0).extractLsb' 12 4).toNat ∧ 7 < (((args 1 [0x3800] base).arg 1 0).extractLsb' 8 4).toNat
    ∧ (let s := args 1 [0x37FF] base;
      s.CanCommand 1 ∧ ((s.arg 1 0).extractLsb' 12 4).toNat = (3 : Port).val ∧ ((s.arg 1 0).extractLsb' 8 4).toNat ≤ 7
        ∧ s.attached 3 = true ∧ (s.port 3).inbox.length < (s.port 3).quota ∧ s.freeSlots ≠ 0)
    ∧ (args 1 [0x3000] (mode 3 .detached base)).attached 3 = false
    ∧ (overcommitted.attached 3 = true ∧ (overcommitted.port 3).quota ≤ (overcommitted.port 3).inbox.length)
    ∧ (overcommitted.port 2).inbox.length < (overcommitted.port 2).quota ∧ overcommitted.freeSlots = 0 := by decide +kernel

theorem witness_ReceiveAndMsgStatus : base.CanCommand 2 ∧ (base.port 2).inbox = []
    ∧ ((inbox 2 1 1 base).port 2).inbox = message 0 :: [] ∧ (message 0).payload.length ≤ 7 := by decide +kernel

theorem witness_AttachOpensASession : (base.port 3).busy = false ∧ (base.port 3).mode = .attached
    ∧ ((mode 3 .detached base).port 3).busy = false ∧ ((mode 3 .detached base).port 3).mode = .detached := by decide +kernel

theorem witness_DetachEndsTheSession : base.CanCommand 3 := by decide +kernel

theorem witness_EvictEndsAnotherSession :
    base.CanCommand 0 ∧ base.isControl 0 = true ∧ 3 < ((args 0 [4] base).arg 0 0).toNat
    ∧ ((args 0 [0] base).arg 0 0).toNat = (0 : Port).val
    ∧ (let s := args 0 [3] base; (3 : Port) ≠ 0 ∧ (s.arg 0 0).toNat = (3 : Port).val ∧ s.attached 3 = true)
    ∧ (args 0 [3] (mode 3 .detached base)).attached 3 = false := by decide +kernel

theorem witness_PortResetAndItsEnd : (base.port 3).mode ≠ .down ∧ (base.port 3).mode = .attached
    ∧ ((mode 3 .detached base).port 3).mode = .detached ∧ (State.reset.port 0).mode = .down := by decide +kernel

theorem witness_EvsumAndNtfnFollowTheClasses : base.Ready 2 ∧ busy.attached 1 = true ∧ busy.ntfAsserted 1 = true
    ∧ base.ntfAsserted 1 = false := by decide +kernel

theorem witness_TakesReturnAndEmptyTheSets : busy.CanCommand 0 := by decide +kernel

theorem witness_PoolStatusReports : busy.CanCommand 3
    ∧ (let s := reading false [] base;
      s.pending = [] ∧ s.readyCycle = some 1 ∧ (s.port 1).command = some (.reading [32, 7, 8] (.engineState :: [.tickDivider]))
        ∧ (s.port 1).request = none ∧ (s.port 1).held = [] ∧ (s.port 1).cycleEnded = false ∧ (s.port 1).mode ≠ .down
        ∧ (Instr.send 1).port? = some 1 ∧ (Instr.send 1).wellFormed = true)
    ∧ (let s := stretched (.reading [32, 28, 8, 0, 63] []) false [] base;
      s.pending = [] ∧ s.readyCycle = some 1 ∧ (s.port 1).command = some (.reading [32, 28, 8, 0, 63] [])) := by decide +kernel

theorem witness_ReadsRdyAndTheEarlyEnd : base.Ready 3 ∧ base.control = some 0 ∧ (State.reset.port 3).mode = .down
    ∧ (let s := posted false [] base; (s.port 1).mode ≠ .down ∧ (s.port 1).busy = true) ∧ (base.port 1).busy = false := by
  decide +kernel

end Sys2Proof.Tests
end

section
/-! PROOF. The events a step is made of, said once: a law that each of them keeps is kept by every step. -/

namespace Sys2Proof.Machine

variable {s t : State} {c : Instr} {P : State → Prop}

/-- Everything a step is made of: the taking of a bus cycle, a change of the bus's own, a change of the model's queue, the grants of
the arbiter, the events of the lease timer, and the resets. -/
inductive State.Event (s : State) : State → Prop where
  | cycle (c : Instr) : s.Event (takeCycle c s)
  | bus (p : Port) (f : PortState → PortState) (h : PortState.BusOnly f) : s.Event (s.onPort p f)
  | queue (rest : List Instr) : s.Event { s with pending := rest }
  | grantPort (p : Port) : s.Event (s.grantPort p)
  | grantEngine : s.Event s.grantEngine
  | count (n : Nat) : s.Event { s with count := n }
  | tick : s.Event s.tick
  | waitExpiry (l : LockNo) (p : Port) : s.Event (s.onLock l fun r => r.waitExpiry p)
  | leaseExpiry (l : LockNo) : s.Event (s.onLock l fun r => r.leaseExpiry)
  | assertReset : s.Event s.assertReset
  | negateReset (csel : Port) : s.Event (s.negateReset csel)
  | assertPortReset (p : Port) : s.Event (s.assertPortReset p)
  | negatePortReset (p : Port) : s.Event (s.negatePortReset p)

/-- A bus cycle of a port that has a meaning is the start of that cycle. -/
theorem exec_next_cycle {p : Port} (hp : c.port? = some p) (h : exec c s = .next t) : t = s.cycle p c := by
  cases hw : c.wellFormed with
  | true =>
    rw [exec_cycle hp hw] at h
    cases h
    rfl
  | false =>
    cases c with
    | badCommand q w =>
      have ha : assignedCode w = true := by simpa [Instr.wellFormed] using hw
      simp [exec, execBadCommand, ha] at h
    | _ => cases hw

/-- A CLK period keeps a law that a count and the lease tick keep (R31). -/
theorem State.clkPeriod_keeps (he : ∀ s t : State, s.Event t → P s → P t) (hs : P s) : P s.clkPeriod := by
  unfold State.clkPeriod
  split
  · exact hs
  · split
    · exact he _ _ .tick hs
    · exact he _ _ (.count _) hs

/-- A command or event keeps a law that every part of it keeps. -/
theorem exec_keeps (he : ∀ s t : State, s.Event t → P s → P t) (hs : P s) (h : exec c s = .next t) : P t := by
  have hb : BusBlind P := fun u q f hf => he _ _ (.bus q f hf)
  have hw : ∀ c u, P u → P (takeCycle c u) := fun c u => he _ _ (.cycle c)
  cases hp : c.port? with
  | some p =>
    rw [exec_next_cycle hp h]
    exact State.cycle_keeps hb hw hs
  | none =>
    cases c with
    | apertureAccess =>
      simp only [exec, execApertureAccess, Host.Outcome.next.injEq] at h
      subst h
      split
      · exact takeHeld_keeps hb (fun c _ => hw c) (he _ _ (.grantPort _) hs)
      · exact hs
      · exact hs
    | copyWordMove =>
      simp only [exec, execCopyWordMove, Host.Outcome.next.injEq] at h
      subst h
      split
      · exact he _ _ .grantEngine hs
      · exact hs
      · exact hs
    | leaseTick =>
      simp only [exec, execLeaseTick, Host.Outcome.next.injEq] at h
      subst h
      split
      · exact hs
      · exact he _ _ .tick hs
    | waitExpiry l p => cases h; exact he _ _ (.waitExpiry l p) hs
    | leaseExpiry l => cases h; exact he _ _ (.leaseExpiry l) hs
    | resetnAsserted => cases h; exact he _ _ .assertReset hs
    | resetnNegated csel => cases h; exact he _ _ (.negateReset csel) hs
    | prstnAsserted p => cases h; exact he _ _ (.assertPortReset p) hs
    | prstnNegated p => cases h; exact he _ _ (.negatePortReset p) hs
    | cycleEndedEarly p =>
      simp only [exec, execCycleEndedEarly, State.endCycleEarly, Host.Outcome.next.injEq] at h
      subst h
      split
      · exact hb s p _ (fun _ => rfl) hs
      · exact hs
    | _ => cases hp

/-- A law that every event keeps is kept by every step. -/
theorem keptByStep_of_events (he : ∀ s t : State, s.Event t → P s → P t) : KeptByStep P := by
  intro s t hs h
  rcases step_cases h with ⟨c, rest, _, hx⟩ | ⟨q, _, _, rfl⟩ | ⟨_, _, rfl⟩
  · exact exec_keeps he (he _ _ (.queue rest) hs) hx
  · exact State.busStep_keeps (fun u q f hf => he _ _ (.bus q f hf)) (fun c u => he _ _ (.cycle c)) hs
  · exact State.clkPeriod_keeps he hs

end Sys2Proof.Machine
end

section
/-! PROOF. What the lock table's events leave of one lock record: every operation leaves a lawful record lawful (R2, R3, R4, R10), and
only the queueing of an entry makes a queue longer (R5). -/

namespace Sys2Proof.Machine

variable {r r' d : LockRec} {p : Port} {e : Waiter}

/-! ### The operations before re-evaluation -/

/-- A record without holders, FREE and without a lease is unsettled if it has an unsettled record's queue (R24, R41). -/
theorem LockRec.Unsettled.freed (h : r.Unsettled) : r.freed.Unsettled := by
  obtain ⟨⟨_, _, hd⟩, hn, _, hl, hw⟩ := h
  refine ⟨⟨by simp [LockRec.freed], nofun, fun he => ⟨rfl, (hd he).2⟩⟩, hn, ?_, ?_, hw⟩
  · exact fun _ _ => PortSet.has_zero _
  · unfold LockRec.leaseLaw at hl ⊢
    rw [Bool.and_eq_true] at hl ⊢
    exact ⟨hl.1, rfl⟩

/-- Fewer entries of lawful waits leave an unsettled record unsettled (R4). -/
theorem LockRec.Unsettled.shorten {q : List Waiter} (h : r.Unsettled)
    (hq : (q.map Waiter.port).Sublist (r.queue.map Waiter.port)) (hw : ∀ e ∈ q, e.waitLaw = true) :
    ({ r with queue := q } : LockRec).Unsettled := by
  obtain ⟨⟨hf, hx, hd⟩, hn, hh, hl, _⟩ := h
  refine ⟨⟨hf, hx, fun he => ⟨(hd he).1, ?_⟩⟩, hq.nodup hn, fun e he => ?_, hl, hw⟩
  · simpa [(hd he).2] using hq
  · obtain ⟨x, hx', hp⟩ := List.mem_map.mp (hq.subset (List.mem_map_of_mem he))
    have := hh x hx'
    rwa [hp] at this

theorem LockRec.Unsettled.dropWaiter (h : r.Unsettled) (p : Port) : (r.dropWaiter p).Unsettled :=
  h.shorten ((List.filter_sublist).map _) fun e he => h.2.2.2.2 e (List.mem_filter.mp he).1

/-- A port taken out of the one port of an EXCLUSIVE lock leaves none, and any other leaves the set as it is. -/
theorem PortSet.erase_ofList (p q : Port) :
    (PortSet.ofList [q]).erase p = 0 ∨ (PortSet.ofList [q]).erase p = PortSet.ofList [q] := by
  by_cases h : p = q
  · exact .inl (PortSet.eq_zero_iff.mpr fun k => by simp [h])
  · refine .inr (PortSet.ext_has fun k => ?_)
    by_cases hk : k = q <;> simp [hk, Ne.symm h]

theorem LockRec.Unsettled.dropHolder (h : r.Unsettled) (p : Port) : (r.dropHolder p).Unsettled := by
  unfold LockRec.dropHolder
  split
  · exact h.freed
  · next h0 =>
    obtain ⟨⟨hf, hx, hd⟩, hn, hh, hl, hw⟩ := h
    have hne : r.holders ≠ 0 := fun hz => h0 (PortSet.eq_zero_iff.mpr fun q => by simp [PortSet.eq_zero_iff.mp hz q])
    refine ⟨⟨⟨fun hm => absurd (hf.mp hm) hne, fun hz => absurd hz h0⟩, fun hm => ?_, hd⟩, hn, fun e he => ?_, hl, hw⟩
    · obtain ⟨q, hq⟩ := hx hm
      refine ⟨q, ?_⟩
      rw [hq] at h0 ⊢
      exact (PortSet.erase_ofList p q).resolve_left h0
    · have := hh e he
      unfold LockRec.heldBy at this ⊢
      simp [this]

/-- The counting of the waits leaves waits of 1 to 1023 (R37, R38). -/
theorem LockRec.Unsettled.countWaits (h : r.Unsettled) : r.countWaits.Unsettled := by
  refine h.shorten ?_ ?_
  · rw [List.map_map]
    exact List.filter_sublist.map _
  · intro e he
    obtain ⟨x, hx, rfl⟩ := List.mem_map.mp he
    obtain ⟨hxq, hxe⟩ := List.mem_filter.mp hx
    have hxw := h.2.2.2.2 x hxq
    unfold Waiter.waitLaw at hxw ⊢
    unfold Waiter.expiring at hxe
    unfold Waiter.counted
    cases hv : x.wait with
    | none => rfl
    | some n =>
      simp only [hv, Bool.and_eq_true, decide_eq_true_eq, Bool.not_eq_true', decide_eq_false_iff_not,
        Option.map_some] at hxw hxe ⊢
      omega

/-- The counting of the lease leaves one of 1 to the lease length (R40, R41). -/
theorem LockRec.Unsettled.countLease (h : r.Unsettled) : r.countLease.Unsettled := by
  unfold LockRec.countLease
  split
  · exact h.freed
  · next hends =>
    obtain ⟨hm, hn, hh, hl, hw⟩ := h
    refine ⟨hm, hn, hh, ?_, hw⟩
    unfold LockRec.leaseLaw at hl ⊢
    unfold LockRec.leaseEnds at hends
    cases hv : r.leaseLeft with
    | none => simpa [hv] using hl
    | some n =>
      simp only [hv, Bool.and_eq_true, decide_eq_true_eq, Option.map_some] at hl hends ⊢
      obtain ⟨hmost, ⟨hfree, _⟩, hn⟩ := hl
      exact ⟨hmost, ⟨hfree, by omega⟩, by omega⟩

/-- An entry of a port that neither holds the lock nor waits for it joins the tail (R11). -/
theorem LockRec.Unsettled.append (h : r.Unsettled) (he : r.enabled = true) (hh : r.heldBy e.port = false)
    (hq : r.queuedBy e.port = false) (hw : e.waitLaw = true) :
    ({ r with queue := r.queue ++ [e] } : LockRec).Unsettled := by
  obtain ⟨⟨hf, hx, _⟩, hn, hhe, hl, hwe⟩ := h
  have hnew : e.port ∉ r.queue.map Waiter.port := by simpa [LockRec.queuedBy] using hq
  refine ⟨⟨hf, hx, fun hd => absurd he (by simpa using hd)⟩, ?_, ?_, hl, ?_⟩
  · simpa [List.nodup_append] using ⟨hn, by simpa using hnew⟩
  · intro x hx'
    rcases List.mem_append.mp hx' with hx' | hx'
    · exact hhe x hx'
    · rw [List.mem_singleton.mp hx']
      exact hh
  · intro x hx'
    rcases List.mem_append.mp hx' with hx' | hx'
    · exact hwe x hx'
    · rw [List.mem_singleton.mp hx']
      exact hw

/-! ### The operations -/

/-- A record after a lock-table event that queues no entry: lawful if it was, and with a queue no longer than before. -/
structure LockRec.Kept (r r' : LockRec) : Prop where
  lawful : r.Lawful → r'.Lawful
  queue_le : r'.queue.length ≤ r.queue.length

theorem LockRec.Kept.refl (r : LockRec) : r.Kept r := ⟨id, le_rfl⟩

theorem LockRec.Kept.of_eq (h : r' = r) : r.Kept r' := h ▸ .refl r

/-- An operation that ends in a re-evaluation. -/
theorem LockRec.Kept.reevaluate (h : r.Unsettled → d.Unsettled) (hq : d.queue.length ≤ r.queue.length) :
    r.Kept d.reevaluate.record :=
  ⟨fun hr => LockRec.reevaluate_lawful (h hr.unsettled), d.reevaluate_queue_le.trans hq⟩

@[simp] theorem LockRec.dropHolder_queue (r : LockRec) (p : Port) : (r.dropHolder p).queue = r.queue := by
  unfold LockRec.dropHolder
  split <;> rfl

@[simp] theorem LockRec.countLease_queue (r : LockRec) : r.countLease.queue = r.queue := by
  unfold LockRec.countLease
  split <;> rfl

theorem LockRec.dropWaiter_queue_le (r : LockRec) (p : Port) : (r.dropWaiter p).queue.length ≤ r.queue.length :=
  List.length_filter_le ..

theorem LockRec.countWaits_queue_le (r : LockRec) : r.countWaits.queue.length ≤ r.queue.length := by
  unfold LockRec.countWaits
  rw [List.length_map]
  exact List.length_filter_le ..

theorem LockRec.release_kept (r : LockRec) (p : Port) : r.Kept (r.release p).record :=
  .reevaluate (·.dropHolder p) (by simp)

theorem LockRec.withdraw_kept (r : LockRec) (p : Port) : r.Kept (r.withdraw p).record :=
  .reevaluate (·.dropWaiter p) (r.dropWaiter_queue_le p)

theorem LockRec.broken_kept (r : LockRec) (flush : Bool) : r.Kept (r.broken flush).record := by
  cases flush with
  | false => exact .reevaluate (·.freed) le_rfl
  | true => exact .reevaluate (fun h => h.freed.shorten (List.nil_sublist _) nofun) (Nat.zero_le _)

theorem LockRec.endSession_kept (r : LockRec) (p : Port) : r.Kept (r.endSession p).record := by
  unfold LockRec.endSession
  split
  · exact .reevaluate (fun h => (h.dropWaiter p).dropHolder p) (by simpa using r.dropWaiter_queue_le p)
  · split
    · exact .reevaluate (·.dropWaiter p) (r.dropWaiter_queue_le p)
    · exact .refl r

theorem LockRec.tick_kept (r : LockRec) : r.Kept r.tick.record :=
  .reevaluate (·.countWaits.countLease) (by simpa using r.countWaits_queue_le)

theorem LockRec.waitExpiry_kept (r : LockRec) (p : Port) : r.Kept (r.waitExpiry p).record := by
  unfold LockRec.waitExpiry
  split
  · exact .reevaluate (·.dropWaiter p) (r.dropWaiter_queue_le p)
  · exact .refl r

theorem LockRec.leaseExpiry_kept (r : LockRec) : r.Kept r.leaseExpiry.record := by
  unfold LockRec.leaseExpiry
  split
  · exact .reevaluate (·.freed) le_rfl
  · exact .refl r

/-- A lawful lock with a holder is not FREE (R2). -/
theorem LockRec.Lawful.mode_ne_free (h : r.Lawful) (hp : r.heldBy p = true) : r.mode ≠ .free := by
  obtain ⟨⟨hf, _, _⟩, _⟩ := h
  intro hm
  have := PortSet.eq_zero_iff.mp (hf.mp hm) p
  simp [LockRec.heldBy, this] at hp

theorem LockRec.renewed_kept (hp : r.heldBy p = true) : r.Kept r.renewed := by
  unfold LockRec.renewed
  split
  · exact .refl r
  · next h0 =>
    refine ⟨fun h => ?_, le_rfl⟩
    have hm := h.mode_ne_free hp
    obtain ⟨hmode, hqueue, hl, hw⟩ := h
    refine ⟨hmode, hqueue, ?_, hw⟩
    unfold LockRec.leaseLaw at hl ⊢
    rw [Bool.and_eq_true] at hl
    simpa [hl.1, hm] using Nat.one_le_iff_ne_zero.mpr h0

/-- A lawful FREE lock has an empty queue (R4). -/
theorem LockRec.Lawful.queue_of_free (h : r.Lawful) (hm : r.mode = .free) : r.queue = [] := by
  have hd := h.2.1.2.2
  unfold LockRec.headLaw at hd
  cases hq : r.queue with
  | nil => rfl
  | cons e rest => simp [hq, hm] at hd

/-- A request that is grantable now finds an empty queue (R4, R9). -/
theorem LockRec.Lawful.queue_of_grantable {m : ReqMode} (h : r.Lawful) (hg : r.grantable m = true) : r.queue = [] := by
  cases hm : r.mode with
  | free => exact h.queue_of_free hm
  | shared => cases m <;> simp_all [LockRec.grantable]
  | exclusive => simp [LockRec.grantable, hm] at hg

/-- A grant at once of an enabled lock (R9, R10). -/
theorem LockRec.grant_kept {m : ReqMode} (he : r.enabled = true) (hg : r.grantable m = true) :
    r.Kept (r.grant m [p]) := by
  refine ⟨fun h => ?_, le_rfl⟩
  have hq : (r.grant m [p]).queue = [] := h.queue_of_grantable hg
  obtain ⟨⟨hf, _, _⟩, _, hl, _⟩ := h
  have hp : (r.grant m [p]).heldBy p = true := by simp [LockRec.heldBy_grant]
  have hz : (r.grant m [p]).holders ≠ 0 := fun h0 => by
    have := PortSet.eq_zero_iff.mp h0 p
    simp [LockRec.heldBy, this] at hp
  have hne : (r.grant m [p]).mode ≠ .free := by cases m <;> simp [LockRec.grant, ReqMode.lockMode]
  refine ⟨⟨⟨fun h0 => absurd h0 hne, fun h0 => absurd h0 hz⟩, fun hx => ⟨p, ?_⟩, fun hd => ?_⟩,
    ⟨by simp [hq], by simp [hq], by simp [LockRec.headLaw, hq]⟩, LockRec.leaseLaw_grant hl m [p], by simp [hq]⟩
  · have hm : m = .exclusive := by cases m <;> simp_all [LockRec.grant, ReqMode.lockMode]
    have hfree : r.mode = .free := by cases hmode : r.mode <;> simp_all [LockRec.grantable]
    exact PortSet.of_zero_or _ _ (hf.mp hfree)
  · simp [LockRec.grant, he] at hd

/-- A lock that is not in use takes an enabled flag and a lease length of at most 1023 (R22). -/
theorem LockRec.configured_kept {en : Bool} {n : Nat} (hh : r.holders = 0) (hq : r.queue = [])
    (hn : n ≤ Config.mostTicks) : r.Kept { r with enabled := en, leaseLength := n } := by
  refine ⟨fun h => ?_, le_rfl⟩
  obtain ⟨⟨hf, hx, _⟩, hqueue, hl, hw⟩ := h
  have hm := hf.mpr hh
  refine ⟨⟨hf, hx, fun _ => ⟨hm, hq⟩⟩, hqueue, ?_, hw⟩
  unfold LockRec.leaseLaw at hl ⊢
  cases hv : r.leaseLeft <;> simp_all

/-- Every lock has its reset record (R30). -/
theorem LockRec.reset_kept (r : LockRec) : r.Kept LockRec.reset :=
  ⟨fun _ => by decide, Nat.zero_le _⟩

/-- The queueing of an entry leaves a lawful record, with a queue longer by at most one (R11, R12). -/
theorem LockRec.enqueue_lawful (h : r.Lawful) (he : r.enabled = true) (hh : r.heldBy e.port = false)
    (hq : r.queuedBy e.port = false) (hw : e.waitLaw = true) : (r.enqueue e).record.Lawful :=
  LockRec.reevaluate_lawful (h.unsettled.append he hh hq hw)

theorem LockRec.enqueue_queue_le (r : LockRec) (e : Waiter) : (r.enqueue e).record.queue.length ≤ r.queue.length + 1 := by
  have := LockRec.reevaluate_queue_le { r with queue := r.queue ++ [e] }
  simpa [LockRec.enqueue] using this

end Sys2Proof.Machine
end

section
/-! PROOF. What every event does to the lock table and to the receive queues, said once; and from it that every step keeps the laws of
the lock records (R2, R3, R4, R10) and the sizes of the two pools (R5, R125, R126). -/

namespace Sys2Proof.Machine

variable {s t u : State} {p q : Port} {l : LockNo} {c : Instr}

/-! ### Sums over the locks and the ports -/

/-- The entries of a table, counted over the lock numbers or the ports. -/
theorem sum_finRange {n : Nat} (f : Fin n → Nat) : ((List.finRange n).map f).sum = ∑ i, f i :=
  (Fin.sum_univ_def f).symm

/-- A count that grows in one place, by at most one, and nowhere else. -/
theorem sum_finRange_le_succ {n : Nat} {f g : Fin n → Nat} (i : Fin n) (hi : g i ≤ f i + 1) (h : ∀ k, k ≠ i → g k ≤ f k) :
    ((List.finRange n).map g).sum ≤ ((List.finRange n).map f).sum + 1 := by
  rw [sum_finRange, sum_finRange, ← Finset.add_sum_erase _ g (Finset.mem_univ i),
    ← Finset.add_sum_erase _ f (Finset.mem_univ i)]
  have : ∑ k ∈ Finset.univ.erase i, g k ≤ ∑ k ∈ Finset.univ.erase i, f k :=
    Finset.sum_le_sum fun k hk => h k (Finset.ne_of_mem_erase hk)
  omega

theorem sum_finRange_mono {n : Nat} {f g : Fin n → Nat} (h : ∀ k, g k ≤ f k) :
    ((List.finRange n).map g).sum ≤ ((List.finRange n).map f).sum :=
  List.sum_le_sum fun k _ => h k

/-! ### What an event can do to the two tables -/

/-- A port's receive queue after an event that delivers no message to it: messages may have left, and a lawful quota is lawful. -/
structure PortState.InboxKept (r r' : PortState) : Prop where
  sublist : r'.inbox.Sublist r.inbox
  quota : r.inbox.length ≤ r.quota → r.quota ≤ Config.largestQuota →
    r'.inbox.length ≤ r'.quota ∧ r'.quota ≤ Config.largestQuota

theorem PortState.InboxKept.of_eq {r r' : PortState} (hi : r'.inbox = r.inbox) (hq : r'.quota = r.quota) : r.InboxKept r' :=
  ⟨by rw [hi], fun h1 h2 => by rw [hi, hq]; exact ⟨h1, h2⟩⟩

/-- A receive queue that is emptied, with the quota kept (R138). -/
theorem PortState.InboxKept.emptied {r r' : PortState} (hi : r'.inbox = []) (hq : r'.quota = r.quota) : r.InboxKept r' :=
  ⟨by rw [hi]; exact List.nil_sublist _, fun _ h2 => by rw [hi, hq]; exact ⟨Nat.zero_le _, h2⟩⟩

/-- The lock table, the receive queues and the quotas are as before. -/
structure State.TablesSame (s t : State) : Prop where
  lock : ∀ l, t.lock l = s.lock l
  inbox : ∀ p, (t.port p).inbox = (s.port p).inbox
  quota : ∀ p, (t.port p).quota = (s.port p).quota

/-- Everything one event can do to the lock table and the receive queues. -/
inductive State.TablesStep (s t : State) : Prop where
  /-- No entry is queued and no message delivered. -/
  | kept (locks : ∀ l, (s.lock l).Kept (t.lock l)) (ports : ∀ p, (s.port p).InboxKept (t.port p))
  /-- An entry takes a free place of the pool (R5, R11). -/
  | queued (l : LockNo) (free : s.freeEntries ≠ 0) (lawful : (s.lock l).Lawful → (t.lock l).Lawful)
      (queue_le : (t.lock l).queue.length ≤ (s.lock l).queue.length + 1) (others : ∀ k, k ≠ l → t.lock k = s.lock k)
      (inbox : ∀ p, (t.port p).inbox = (s.port p).inbox) (quota : ∀ p, (t.port p).quota = (s.port p).quota)
  /-- A message takes a free slot of the pool and a free place of its queue (R125, R126, R128). -/
  | sent (d : Port) (m : Message) (free : s.freeSlots ≠ 0) (room : (s.port d).inbox.length < (s.port d).quota)
      (short : m.payload.length ≤ 7) (lock : ∀ l, t.lock l = s.lock l)
      (inbox : (t.port d).inbox = (s.port d).inbox ++ [m]) (others : ∀ p, p ≠ d → (t.port p).inbox = (s.port p).inbox)
      (quota : ∀ p, (t.port p).quota = (s.port p).quota)

/-! ### The laws -/

/-- The laws of the lock records are kept (R2, R3, R4, R10). -/
theorem State.TablesStep.locksLawful (h : s.TablesStep t) (hs : s.LocksLawful) : t.LocksLawful := by
  intro k
  cases h with
  | kept locks => exact (locks k).lawful (hs k)
  | queued l _ lawful _ others =>
    by_cases hk : k = l
    · rw [hk]
      exact lawful (hs l)
    · rw [others k hk]
      exact hs k
  | sent _ _ _ _ _ lock =>
    rw [lock k]
    exact hs k

/-- The waiter entries stay within the pool (R5). -/
theorem State.TablesStep.poolLaw (h : s.TablesStep t) (hs : s.PoolLaw) : t.PoolLaw := by
  cases h with
  | kept locks => exact (sum_finRange_mono fun k => (locks k).queue_le).trans hs
  | queued l free _ queue_le others =>
    have hle : t.entriesInUse ≤ s.entriesInUse + 1 := sum_finRange_le_succ l queue_le fun k hk => by rw [others k hk]
    have hfree : Config.waiterEntries - s.entriesInUse ≠ 0 := free
    exact hle.trans (by omega)
  | sent _ _ _ _ _ lock => exact (sum_finRange_mono fun k => by rw [lock k]).trans hs

/-- The receive queues stay within their quotas, the messages within the slots, and the payloads within 7 words (R125, R126). -/
theorem State.TablesStep.messagesLawful (h : s.TablesStep t) (hs : s.MessagesLawful) : t.MessagesLawful := by
  obtain ⟨hquota, hslots, hpay⟩ := hs
  cases h with
  | kept _ ports =>
    refine ⟨fun p => (ports p).quota (hquota p).1 (hquota p).2, ?_, fun p m hm => hpay p m ((ports p).sublist.subset hm)⟩
    exact (sum_finRange_mono fun p => (ports p).sublist.length_le).trans hslots
  | queued _ _ _ _ _ inbox quota =>
    refine ⟨fun p => by rw [inbox, quota]; exact hquota p, ?_, fun p m hm => hpay p m (by rwa [← inbox])⟩
    exact (sum_finRange_mono fun p => by rw [inbox p]).trans hslots
  | sent d m free room short _ inbox others quota =>
    have hlen : (t.port d).inbox.length = (s.port d).inbox.length + 1 := by rw [inbox]; simp
    refine ⟨fun p => ?_, ?_, fun p x hx => ?_⟩
    · rw [quota p]
      refine ⟨?_, (hquota p).2⟩
      by_cases hp : p = d
      · subst hp
        omega
      · rw [others p hp]
        exact (hquota p).1
    · have hle : t.slotsInUse ≤ s.slotsInUse + 1 := sum_finRange_le_succ d hlen.le fun p hp => by rw [others p hp]
      have hfree : Config.messageSlots - s.slotsInUse ≠ 0 := free
      omega
    · by_cases hp : p = d
      · subst hp
        rw [inbox] at hx
        rcases List.mem_append.mp hx with hx | hx
        · exact hpay p x hx
        · rw [List.mem_singleton.mp hx]
          exact short
      · rw [others p hp] at hx
        exact hpay p x hx

/-! ### Changes that leave both tables alone -/

theorem State.TablesSame.refl (s : State) : s.TablesSame s := ⟨fun _ => rfl, fun _ => rfl, fun _ => rfl⟩

theorem State.TablesSame.trans (h : s.TablesSame t) (k : t.TablesSame u) : s.TablesSame u :=
  ⟨fun l => (k.lock l).trans (h.lock l), fun p => (k.inbox p).trans (h.inbox p), fun p => (k.quota p).trans (h.quota p)⟩

theorem State.TablesSame.step (h : s.TablesSame t) : s.TablesStep t :=
  .kept (fun l => .of_eq (h.lock l)) fun p => .of_eq (h.inbox p) (h.quota p)

theorem State.TablesStep.refl (s : State) : s.TablesStep s := (State.TablesSame.refl s).step

/-- What comes after an event and leaves both tables alone. -/
theorem State.TablesStep.then_same (h : s.TablesStep t) (k : t.TablesSame u) : s.TablesStep u := by
  cases h with
  | kept locks ports =>
    refine .kept (fun l => ?_) fun p => ⟨?_, ?_⟩
    · rw [k.lock l]; exact locks l
    · rw [k.inbox p]; exact (ports p).sublist
    · rw [k.inbox p, k.quota p]; exact (ports p).quota
  | queued l free lawful queue_le others inbox quota =>
    refine .queued l free ?_ ?_ (fun m hm => (k.lock m).trans (others m hm)) (fun p => (k.inbox p).trans (inbox p))
      fun p => (k.quota p).trans (quota p)
    · rw [k.lock l]; exact lawful
    · rw [k.lock l]; exact queue_le
  | sent d m free room short lock inbox others quota =>
    exact .sent d m free room short (fun l => (k.lock l).trans (lock l)) ((k.inbox d).trans inbox)
      (fun p hp => (k.inbox p).trans (others p hp)) fun p => (k.quota p).trans (quota p)

/-- A change of port records outside the message unit. -/
theorem State.TablesSame.mapPorts {f : Port → PortState → PortState}
    (hf : ∀ q r, (f q r).inbox = r.inbox ∧ (f q r).quota = r.quota) : s.TablesSame (s.mapPorts f) :=
  ⟨fun _ => rfl, fun q => by simp [(hf q _).1], fun q => by simp [(hf q _).2]⟩

theorem State.TablesSame.onPort {f : PortState → PortState}
    (hf : ∀ r, (f r).inbox = r.inbox ∧ (f r).quota = r.quota := by exact fun _ => ⟨rfl, rfl⟩) :
    s.TablesSame (s.onPort p f) :=
  State.TablesSame.mapPorts fun q r => by
    split
    · exact hf r
    · exact ⟨rfl, rfl⟩

/-- A change of something else than the ports and the locks. -/
theorem State.TablesSame.of_records (hp : t.ports = s.ports := by rfl) (hl : t.locks = s.locks := by rfl) :
    s.TablesSame t :=
  ⟨fun l => congrArg (·[l]) hl, fun p => congrArg (fun v : Vector PortState 4 => v[p].inbox) hp,
    fun p => congrArg (fun v : Vector PortState 4 => v[p].quota) hp⟩

/-- A change made after one of something else than the ports and the locks. -/
theorem State.TablesSame.after (h : t.TablesSame u) (hp : t.ports = s.ports := by rfl) (hl : t.locks = s.locks := by rfl) :
    s.TablesSame u :=
  (State.TablesSame.of_records hp hl).trans h

theorem State.TablesSame.post {code : Byte} {r : Result} {ws : List Word} : s.TablesSame (s.post p code r ws) :=
  .onPort

theorem State.TablesSame.setEngine {e : Engine} : s.TablesSame (s.setEngine e) := .of_records

/-! ### The work of the lock commands -/

/-- A lock-table event whose record changes are kept ones. -/
theorem State.TablesStep.lockEvent {f : LockNo → LockRec → LockChange} (h : ∀ l, (s.lock l).Kept (f l (s.lock l)).record) :
    s.TablesStep (s.lockEvent f) :=
  .kept (fun l => by rw [State.lock_lockEvent]; exact h l) fun _ =>
    .of_eq (State.lockEvent_port_inbox ..) (State.lockEvent_port_quota ..)

theorem State.TablesStep.onLock {g : LockRec → LockChange} (h : (s.lock l).Kept (g (s.lock l)).record) :
    s.TablesStep (s.onLock l g) := by
  refine .lockEvent fun k => ?_
  split
  · next hk => rw [hk]; exact h
  · exact .refl _

theorem State.TablesStep.withLock {k : LockNo → Reply} (hk : ∀ l, s.TablesStep (k l).state) :
    s.TablesStep (s.withLock q k).state := by
  unfold State.withLock
  split
  · exact .refl s
  · exact hk _

/-- A number that a range check accepts lies in the range (R184). -/
theorem range_of_rangeField {low high n : Nat} {w : Word} (h : rangeField low high w = some n) : low ≤ n ∧ n ≤ high := by
  unfold rangeField at h
  split at h
  · next hr =>
    cases h
    exact hr
  · cases h

/-- The wait limit that ACQUIRE's check accepts gives a lawful wait (R3, R7). -/
theorem waitLaw_of_acquireArgs {a b w : Word} {x : AcquireArgs} (h : acquireArgs a b w = some x) (p : Port) (m : ReqMode) :
    Waiter.waitLaw { port := p, mode := m, wait := if x.limit = 0 then none else some x.limit } = true := by
  have hx : x.limit ≤ Config.mostTicks := by
    unfold acquireArgs at h
    split at h
    · next hr =>
      cases h
      exact (range_of_rangeField hr).2
    · cases h
  unfold Waiter.waitLaw
  by_cases h0 : x.limit = 0
  · simp [h0]
  · simpa [h0, hx] using Nat.one_le_iff_ne_zero.mpr h0

/-- ACQUIRE's decision grants, refuses, or queues an entry that takes a free place of the pool (R9, R11). -/
theorem State.decideAcquire_tables {x : AcquireArgs} (he : (s.lock l).enabled = true) (hh : (s.lock l).heldBy p = false)
    (hq : (s.lock l).queuedBy p = false)
    (hw : Waiter.waitLaw { port := p, mode := x.mode, wait := if x.limit = 0 then none else some x.limit } = true) :
    s.TablesStep (s.decideAcquire p l x).state := by
  unfold State.decideAcquire
  split
  · next hg =>
    with_reducible refine .onLock ?_
    exact LockRec.grant_kept he hg
  · split
    · exact .refl s
    · split
      · exact .refl s
      · next hfree =>
        refine .queued l hfree (fun h => ?_) ?_ (fun k hk => by simp [hk]) (fun _ => by simp) (fun _ => by simp)
        · rw [State.lock_onLock, if_pos rfl]
          exact LockRec.enqueue_lawful h he hh hq hw
        · rw [State.lock_onLock, if_pos rfl]
          exact LockRec.enqueue_queue_le ..

theorem acquireWork_tables : s.TablesStep (acquireWork p s).state := by
  refine .withLock fun l => ?_
  split
  · exact .refl s
  · next he =>
    split
    · exact .refl s
    · next x hx =>
      split
      · exact .refl s
      · next hh =>
        split
        · exact .refl s
        · next hq =>
          exact State.decideAcquire_tables (by simpa using he) (by simpa using hh) (by simpa using hq)
            (waitLaw_of_acquireArgs hx p x.mode)

theorem releaseWork_tables : s.TablesStep (releaseWork p s).state := by
  refine .withLock fun l => ?_
  split
  · with_reducible refine .onLock ?_
    exact LockRec.release_kept ..
  · exact .refl s

theorem renewWork_tables : s.TablesStep (renewWork p s).state := by
  refine .withLock fun l => ?_
  split
  · next h =>
    with_reducible refine .onLock ?_
    exact LockRec.renewed_kept h
  · exact .refl s

theorem withdrawWork_tables : s.TablesStep (withdrawWork p s).state := by
  refine .withLock fun l => ?_
  split
  · with_reducible refine .onLock ?_
    exact LockRec.withdraw_kept ..
  · exact .refl s

/-- The lease length that SET_LOCK's check accepts is at most 1023 (R22). -/
theorem le_mostTicks_of_setLockArgs {a b : Word} {e : Bool} {n : Nat} (h : setLockArgs a b = some (e, n)) :
    n ≤ Config.mostTicks := by
  unfold setLockArgs at h
  split at h
  · next hr =>
    cases h
    exact (range_of_rangeField hr).2
  · cases h

theorem setLockWork_tables : s.TablesStep (setLockWork p s).state := by
  refine .withLock fun l => ?_
  split
  · exact .refl s
  · next ha =>
    split
    · exact .refl s
    · next hu =>
      simp only [ne_eq, not_or, not_not] at hu
      with_reducible refine .onLock ?_
      exact LockRec.configured_kept hu.1 hu.2 (le_mostTicks_of_setLockArgs ha)

theorem breakWork_tables : s.TablesStep (breakWork p s).state := by
  refine .withLock fun l => ?_
  split
  · exact .refl s
  · with_reducible refine .onLock ?_
    exact LockRec.broken_kept ..

/-! ### The work of the message commands -/

/-- A payload has no more words than the length that SEND's check accepts, at most 7 (R124, R128). -/
theorem State.payload_length_le (n : Nat) : (s.payload p n).length ≤ 7 := by
  unfold State.payload
  rw [List.length_take]
  exact min_le_right _ _

theorem sendWork_tables : s.TablesStep (sendWork p s).state := by
  unfold sendWork
  split
  · exact .refl s
  · next a _ =>
    split
    · exact .refl s
    · split
      · exact .refl s
      · next hroom =>
        split
        · exact .refl s
        · next hfree =>
          refine .sent a.dest _ hfree (Nat.lt_of_not_le hroom) (State.payload_length_le _) (fun _ => rfl)
            (by rw [State.deliver, State.port_onPort_self])
            (fun q hq => by rw [State.deliver, State.port_onPort_of_ne _ hq]) fun q => ?_
          rw [State.deliver, State.port_onPort]
          split <;> rfl

/-- A change of one port's record that leaves its receive queue lawful. -/
theorem State.TablesStep.onPort {f : PortState → PortState} (h : (s.port p).InboxKept (f (s.port p))) :
    s.TablesStep (s.onPort p f) :=
  .kept (fun _ => .refl _) fun q => by
    rw [State.port_onPort]
    split
    · next hq => rw [hq]; exact h
    · exact .of_eq rfl rfl

theorem receiveWork_tables : s.TablesStep (receiveWork p s).state := by
  unfold receiveWork
  split
  · exact .refl s
  · next m ms h =>
    with_reducible refine .onPort ?_
    refine ⟨?_, fun h1 h2 => ⟨?_, h2⟩⟩
    · rw [h]
      exact List.sublist_cons_self ..
    · rw [h] at h1
      exact (Nat.le_succ _).trans h1

/-- The quota that SET_QUOTA's check accepts is at most 32 (R136). -/
theorem le_largestQuota_of_quotaArgs {a b : Word} {t : Port} {n : Nat} (h : quotaArgs a b = some (t, n)) :
    n ≤ Config.largestQuota := by
  unfold quotaArgs at h
  split at h
  · next hr =>
    cases h
    exact (range_of_rangeField hr).2
  · cases h

theorem setQuotaWork_tables : s.TablesStep (setQuotaWork p s).state := by
  unfold setQuotaWork
  split
  · exact .refl s
  · next ha =>
    split
    · exact .refl s
    · next hu =>
      with_reducible refine .onPort ?_
      exact ⟨.refl _, fun _ _ => ⟨Nat.le_of_not_lt hu, le_largestQuota_of_quotaArgs ha⟩⟩

end Sys2Proof.Machine
end

section
/-! PROOF. No other command touches the two tables, and what the grants, the timer and the resets do to them. -/

namespace Sys2Proof.Machine

variable {s t u : State} {p q : Port} {l : LockNo} {c : Instr}

/-! ### The work of the other commands -/

theorem setTickWork_tables : s.TablesSame (setTickWork p s).state := by
  unfold setTickWork
  split
  · exact .refl s
  · exact .of_records

theorem probeWork_tables : s.TablesSame (probeWork p s).state := by
  unfold probeWork
  split <;> exact .refl s

theorem getWindowWork_tables : s.TablesSame (getWindowWork p s).state := by
  unfold getWindowWork
  split <;> exact .refl s

theorem setWindowWork_tables : s.TablesSame (setWindowWork p s).state := by
  unfold setWindowWork
  split
  · exact .refl s
  · exact .of_records

theorem setDefaultRightsWork_tables : s.TablesSame (setDefaultRightsWork p s).state := by
  unfold setDefaultRightsWork
  split
  · exact .refl s
  · exact .of_records

theorem State.copyRequest_tables {j : CopyJob} : s.TablesSame (s.copyRequest p j).state := by
  unfold State.copyRequest
  split
  · exact .refl s
  · split
    · exact .refl s
    · split
      · exact .refl s
      · unfold State.acceptCopy
        with_reducible exact .trans .setEngine .onPort

theorem State.endDescriptor_tables {rest : List Descriptor} {d : Descriptor} {st : CopyStatus} :
    s.TablesSame (s.endDescriptor rest d st) := by
  unfold State.endDescriptor State.addCompletion
  exact .trans .setEngine .onPort

theorem cancelCopyWork_tables : s.TablesSame (cancelCopyWork p s).state := by
  unfold cancelCopyWork
  split
  · exact .refl s
  · split
    · exact State.endDescriptor_tables
    · split <;> exact .refl s

theorem takeCompletionWork_tables : s.TablesSame (takeCompletionWork p s).state := by
  unfold takeCompletionWork
  split
  · exact .refl s
  · with_reducible exact .onPort

theorem resumeCopyWork_tables : s.TablesSame (resumeCopyWork p s).state := by
  unfold resumeCopyWork
  split
  · exact .setEngine
  · exact .refl s
  · exact .refl s

theorem takeLockEventsWork_tables : s.TablesSame (takeLockEventsWork p s).state := by
  unfold takeLockEventsWork
  with_reducible exact .onPort

theorem takePeerEventsWork_tables : s.TablesSame (takePeerEventsWork p s).state := by
  unfold takePeerEventsWork
  with_reducible exact .onPort

theorem takeFaultWork_tables : s.TablesSame (takeFaultWork p s).state := by
  unfold takeFaultWork
  split
  · exact .refl s
  · with_reducible exact .onPort

/-! ### Sessions -/

/-- A session end takes the port's holds and entries from the lock table, and empties its receive queue (R27, R28, R138). -/
theorem State.endSession_tables {m : PortMode} (hm : m ≠ .attached) : s.TablesStep (s.endSession p m) := by
  refine .kept (fun l => ?_) fun q => ?_
  · rw [State.endSession_lock]
    exact LockRec.endSession_kept ..
  · by_cases hq : q = p
    · rw [hq, State.endSession_port_self _ _ _ hm]
      exact .emptied rfl rfl
    · rw [State.endSession_port_other _ _ _ _ hq]
      split <;> exact .of_eq rfl rfl

theorem evictWork_tables : s.TablesStep (evictWork p s).state := by
  unfold evictWork
  split
  · exact .refl s
  · split
    · exact .refl s
    · exact State.endSession_tables (by decide)

theorem State.announceUp_tables : s.TablesSame (s.announceUp p) :=
  .mapPorts fun _ r => by
    split <;> exact ⟨rfl, rfl⟩

theorem State.attach_tables : s.TablesSame (s.attach p) := by
  unfold State.attach
  split
  · exact .post
  · refine .trans (.trans ?_ State.announceUp_tables) .post
    exact .onPort

/-! ### The other cycles -/

theorem State.beginPoolStatus_tables : s.TablesSame (s.beginPoolStatus p) := by
  unfold State.beginPoolStatus
  split
  · exact .post
  · exact .onPort

theorem State.takeAdata_tables {k : AccessKind} : s.TablesSame (s.takeAdata p k) := by
  unfold State.takeAdata
  split <;> exact .onPort

theorem State.writeAmode_tables {w : Word} : s.TablesSame (s.writeAmode p w) := by
  unfold State.writeAmode
  split
  · exact .onPort
  · exact .refl s

theorem State.writeEvenSet_tables {w : Word} : s.TablesSame (s.writeEvenSet p w) := by
  unfold State.writeEvenSet
  split
  · exact .onPort
  · exact .refl s

theorem State.writeEvenClr_tables {w : Word} : s.TablesSame (s.writeEvenClr p w) := by
  unfold State.writeEvenClr
  exact .onPort

theorem State.writePlain_tables {r : PlainWord} {w : Word} : s.TablesSame (s.writePlain p r w) := by
  cases r with
  | arg i => exact .onPort
  | aaddr => exact .onPort
  | _ => exact .refl s

/-- A command's effect on the tables is that of its work. -/
theorem State.issue_tables {work : State → Reply} (h : s.TablesStep (work s).state) : s.TablesStep (s.issue c p work) :=
  State.issue_keeps (P := fun t => s.TablesStep t) (.refl s) (fun _ _ _ _ ht => ht.then_same .post) fun _ => h

/-- What the taking of any bus cycle does to the lock table and the receive queues. -/
theorem takeCycle_tables (c : Instr) (s : State) : s.TablesStep (takeCycle c s) := by
  cases c with
  | attach p => exact State.attach_tables.step
  | detach p => exact State.issue_tables (State.endSession_tables (by decide))
  | evict p => exact State.issue_tables evictWork_tables
  | acquire p => exact State.issue_tables acquireWork_tables
  | release p => exact State.issue_tables releaseWork_tables
  | renew p => exact State.issue_tables renewWork_tables
  | withdraw p => exact State.issue_tables withdrawWork_tables
  | lockStatus p => exact State.issue_tables (.withLock fun _ => .refl s)
  | setLock p => exact State.issue_tables setLockWork_tables
  | breakLock p => exact State.issue_tables breakWork_tables
  | setTick p => exact State.issue_tables setTickWork_tables.step
  | probe p => exact State.issue_tables probeWork_tables.step
  | getWindow p => exact State.issue_tables getWindowWork_tables.step
  | setWindow p => exact State.issue_tables setWindowWork_tables.step
  | setDefaultRights p => exact State.issue_tables setDefaultRightsWork_tables.step
  | copy p => exact State.issue_tables State.copyRequest_tables.step
  | fill p => exact State.issue_tables State.copyRequest_tables.step
  | cancelCopy p => exact State.issue_tables cancelCopyWork_tables.step
  | takeCompletion p => exact State.issue_tables takeCompletionWork_tables.step
  | pauseCopy p => exact State.issue_tables State.TablesSame.setEngine.step
  | resumeCopy p => exact State.issue_tables resumeCopyWork_tables.step
  | send p => exact State.issue_tables sendWork_tables
  | receive p => exact State.issue_tables receiveWork_tables
  | msgStatus p => exact State.issue_tables (.refl s)
  | setQuota p => exact State.issue_tables setQuotaWork_tables
  | takeLockEvents p => exact State.issue_tables takeLockEventsWork_tables.step
  | takePeerEvents p => exact State.issue_tables takePeerEventsWork_tables.step
  | takeFault p => exact State.issue_tables takeFaultWork_tables.step
  | poolStatus p => exact State.beginPoolStatus_tables.step
  | badCommand p w => exact State.TablesSame.post.step
  | adataRead p => exact State.takeAdata_tables.step
  | adataWrite p w => exact State.takeAdata_tables.step
  | amodeWrite p w => exact State.writeAmode_tables.step
  | evenSet p w => exact State.writeEvenSet_tables.step
  | evenClr p w => exact State.writeEvenClr_tables.step
  | registerWrite p r w => exact State.writePlain_tables.step
  | _ => exact .refl s

/-! ### The grants of the arbiter -/

theorem State.servePermitted_tables {x : AccessRequest} {a : MemAddr} : s.TablesSame (s.servePermitted p x a) := by
  unfold State.servePermitted
  split
  · exact .onPort
  · exact .after (.onPort)

theorem State.serveAccess_tables {x : AccessRequest} : s.TablesSame (s.serveAccess p x) := by
  unfold State.serveAccess
  split
  · exact .onPort
  · split
    · exact State.servePermitted_tables
    · exact .onPort

theorem State.grantPort_tables : s.TablesSame (s.grantPort p) := by
  unfold State.grantPort
  split
  · exact .refl s
  · exact .after State.serveAccess_tables

theorem State.serveWord_tables {d : Descriptor} {rest : List Descriptor} : s.TablesSame (s.serveWord d rest) := by
  unfold State.serveWord
  split
  · exact State.endDescriptor_tables
  · split
    · exact .after State.endDescriptor_tables
    · exact .of_records

theorem State.grantEngine_tables : s.TablesSame s.grantEngine := by
  unfold State.grantEngine
  split
  · exact .of_records
  · exact .after State.serveWord_tables

/-! ### The lease tick and the resets -/

theorem State.tick_tables : s.TablesStep s.tick := by
  refine .kept (fun l => ?_) fun q => ?_
  · rw [State.tick, State.lock_lockEvent]
    exact LockRec.tick_kept _
  · exact .of_eq (State.lockEvent_port_inbox ..) (State.lockEvent_port_quota ..)

/-- RESETn empties the lock table and the receive queues (R30, R140). -/
theorem State.assertReset_tables : s.TablesStep s.assertReset := by
  refine .kept (fun l => ?_) fun q => ?_
  · have h : s.assertReset.lock l = LockRec.reset := by simp [State.assertReset, State.lock, State.reset]
    rw [h]
    exact LockRec.reset_kept _
  · have h : s.assertReset.port q = { PortState.reset with prstAsserted := (s.port q).prstAsserted } := by
      simp [State.assertReset, State.port]
    rw [h]
    have hquota : PortState.reset.inbox.length ≤ PortState.reset.quota ∧ PortState.reset.quota ≤ Config.largestQuota := by
      decide
    exact ⟨List.nil_sublist _, fun _ _ => hquota⟩

theorem State.negateReset_tables {csel : Port} : s.TablesSame (s.negateReset csel) := by
  unfold State.negateReset
  split
  · exact .refl s
  · refine .after (.mapPorts fun _ r => ?_)
    split <;> exact ⟨rfl, rfl⟩

theorem State.assertPortReset_tables : s.TablesStep (s.assertPortReset p) := by
  unfold State.assertPortReset
  split
  · exact State.TablesSame.step .onPort
  · exact State.TablesSame.step .onPort
  · exact (State.endSession_tables (by decide)).then_same .onPort

/-! ### Every event, and every step -/

/-- The bus's own changes of a port's record leave its receive queue and its quota. -/
theorem PortState.BusOnly.messages {f : PortState → PortState} (hf : PortState.BusOnly f) (r : PortState) :
    (f r).inbox = r.inbox ∧ (f r).quota = r.quota := by
  rw [show f r = _ from hf r]
  exact ⟨rfl, rfl⟩

/-- What any event does to the lock table and the receive queues. -/
theorem State.Event.tables (h : s.Event t) : s.TablesStep t := by
  cases h with
  | cycle c => exact takeCycle_tables c s
  | bus p f hf => exact (State.TablesSame.onPort hf.messages).step
  | queue rest => exact (State.TablesSame.of_records).step
  | grantPort p => exact State.grantPort_tables.step
  | grantEngine => exact State.grantEngine_tables.step
  | count n => exact (State.TablesSame.of_records).step
  | tick => exact State.tick_tables
  | waitExpiry l p => exact .onLock (LockRec.waitExpiry_kept ..)
  | leaseExpiry l => exact .onLock (LockRec.leaseExpiry_kept _)
  | assertReset => exact State.assertReset_tables
  | negateReset csel => exact State.negateReset_tables.step
  | assertPortReset p => exact State.assertPortReset_tables
  | negatePortReset p => exact State.TablesSame.step .onPort

/-- Settles O8: the laws of the lock records are laws that every event keeps. -/
theorem stepKeepsLockLaws : Obligations.StepKeepsLockLaws :=
  keptByStep_of_events fun _ _ h => h.tables.locksLawful

/-- Settles O9: the two pools are laws that every event keeps. -/
theorem stepKeepsPools : Obligations.StepKeepsPools :=
  ⟨keptByStep_of_events fun _ _ h => h.tables.poolLaw, keptByStep_of_events fun _ _ h => h.tables.messagesLawful⟩

end Sys2Proof.Machine
end

section
/-! PROOF. The lock commands as runs of their work: the reply of each check, and what the accepted command leaves. -/

namespace Sys2Proof.Machine

variable {s : State} {p : Port} {l : LockNo} {r : LockRec} {c : Instr} {cmd : State → Reply} {code : Byte}

/-! ### The run of a command -/

/-- A command open to every port runs its work and posts the reply (R171, R174). -/
theorem exec_open {a : Reply} (h : s.CanCommand p) (hw : cmd s = a) (ht : takeCycle c s = s.issue c p cmd)
    (hp : c.port? = some p) (hf : c.wellFormed = true) (hc : c.code? = some code) (hr : reservedCode code = false) :
    exec c s = .next (a.state.post p code a.result a.words) := by
  rw [exec_cycle hp hf, State.cycle_open h ht hc hr, hw]

/-- A command of the control port runs its work and posts the reply. -/
theorem exec_control {a : Reply} (h : s.CanCommand p) (hk : s.isControl p = true) (hw : cmd s = a)
    (ht : takeCycle c s = s.issue c p cmd) (hp : c.port? = some p) (hf : c.wellFormed = true) (hc : c.code? = some code) :
    exec c s = .next (a.state.post p code a.result a.words) := by
  rw [exec_cycle hp hf, State.cycle_control h hk ht hc, hw]

section
variable {a : Reply} (h : s.CanCommand p)
include h

theorem exec_acquire_of (hw : acquireWork p s = a) :
    exec (.acquire p) s = .next (a.state.post p 0x10 a.result a.words) := exec_open h hw rfl rfl rfl rfl rfl

theorem exec_release_of (hw : releaseWork p s = a) :
    exec (.release p) s = .next (a.state.post p 0x11 a.result a.words) := exec_open h hw rfl rfl rfl rfl rfl

theorem exec_renew_of (hw : renewWork p s = a) :
    exec (.renew p) s = .next (a.state.post p 0x12 a.result a.words) := exec_open h hw rfl rfl rfl rfl rfl

theorem exec_withdraw_of (hw : withdrawWork p s = a) :
    exec (.withdraw p) s = .next (a.state.post p 0x13 a.result a.words) := exec_open h hw rfl rfl rfl rfl rfl

theorem exec_lockStatus_of (hw : lockStatusWork p s = a) :
    exec (.lockStatus p) s = .next (a.state.post p 0x14 a.result a.words) := exec_open h hw rfl rfl rfl rfl rfl

theorem exec_setLock_of (hk : s.isControl p = true) (hw : setLockWork p s = a) :
    exec (.setLock p) s = .next (a.state.post p 0x18 a.result a.words) := exec_control h hk hw rfl rfl rfl rfl

theorem exec_breakLock_of (hk : s.isControl p = true) (hw : breakWork p s = a) :
    exec (.breakLock p) s = .next (a.state.post p 0x19 a.result a.words) := exec_control h hk hw rfl rfl rfl rfl

end

/-! ### The work of ACQUIRE -/

/-- A valid mode word is the code of a mode (Table 10-2). -/
theorem exists_mode_of_word {w : Word} (hw : w = 1 ∨ w = 2) : ∃ m : ReqMode, w = m.code.setWidth 16 := by
  rcases hw with rfl | rfl
  · exact ⟨.shared, rfl⟩
  · exact ⟨.exclusive, rfl⟩

/-- A valid flag word is a flag (R184). -/
theorem exists_flag_of_word {w : Word} (hw : w = 0 ∨ w = 1) : ∃ f : Bool, w = if f then 1 else 0 := by
  rcases hw with rfl | rfl
  · exact ⟨false, rfl⟩
  · exact ⟨true, rfl⟩

section
variable (hl : (s.arg p 0).toNat = l.val)
include hl

/-- R7 check 1: the lock is disabled. -/
theorem acquireWork_disabled (he : (s.lock l).enabled = false) :
    acquireWork p s = { state := s, result := .badLock } := by
  rw [acquireWork, State.withLock_of hl, if_pos he]

variable (he : (s.lock l).enabled = true)
include he

/-- R7 check 2: a field is malformed. -/
theorem acquireWork_badArg (ha : acquireArgs (s.arg p 1) (s.arg p 2) (s.arg p 3) = none) :
    acquireWork p s = { state := s, result := .badArg } := by
  rw [acquireWork, State.withLock_of hl, if_neg (by simp [he]), ha]

variable {x : AcquireArgs} (ha : acquireArgs (s.arg p 1) (s.arg p 2) (s.arg p 3) = some x)
include ha

/-- R8: the port holds the lock. -/
theorem acquireWork_held (hh : (s.lock l).heldBy p = true) : acquireWork p s = { state := s, result := .alreadyHeld } := by
  rw [acquireWork, State.withLock_of hl, if_neg (by simp [he]), ha]
  exact if_pos hh

variable (hh : (s.lock l).heldBy p = false)
include hh

/-- R8: the port has an entry in the queue. -/
theorem acquireWork_queued (hq : (s.lock l).queuedBy p = true) :
    acquireWork p s = { state := s, result := .alreadyQueued } := by
  rw [acquireWork, State.withLock_of hl, if_neg (by simp [he]), ha]
  exact (if_neg (by simp [hh])).trans (if_pos hq)

/-- All checks pass, and ACQUIRE comes to its decision (R9, R11). -/
theorem acquireWork_decides (hq : (s.lock l).queuedBy p = false) : acquireWork p s = s.decideAcquire p l x := by
  rw [acquireWork, State.withLock_of hl, if_neg (by simp [he]), ha]
  exact (if_neg (by simp [hh])).trans (if_neg (by simp [hq]))

end

/-! ### The record that ACQUIRE leaves -/

/-- A FREE lock, and a SHARED one with an empty queue for a SHARED request, is grantable now (R9). -/
theorem LockRec.grantable_of {m : ReqMode}
    (hm : r.mode = .free ∨ (r.mode = .shared ∧ m = .shared ∧ r.queue = [])) : r.grantable m = true := by
  unfold LockRec.grantable
  rcases hm with hm | ⟨hm, rfl, hq⟩
  · rw [hm]
  · rw [hm, hq]
    rfl

/-- No other lock is (R9). -/
theorem LockRec.not_grantable_of {m : ReqMode} (hm : r.mode ≠ .free)
    (hs : r.mode = .shared → m = .shared → r.queue ≠ []) : r.grantable m = false := by
  unfold LockRec.grantable
  cases hmode : r.mode with
  | free => exact absurd hmode hm
  | shared =>
    cases m with
    | shared => simpa using hs hmode rfl
    | exclusive => rfl
  | exclusive => rfl

/-- The grant of one request: the port joins the holders (R9, R10). -/
theorem LockRec.grant_singleton (r : LockRec) (m : ReqMode) (p : Port) :
    r.grant m [p] = { r with
      mode := m.lockMode
      holders := r.holders.insert p
      leaseLeft := if r.mode = .free then (if r.leaseLength = 0 then none else some r.leaseLength) else r.leaseLeft } := by
  have hset : (PortSet.of fun q => r.holders.has q || [p].contains q) = r.holders.insert p :=
    PortSet.ext_has fun q => by rw [PortSet.has_of, PortSet.has_insert, List.contains_cons, List.contains_nil, Bool.or_false]
  simp only [LockRec.grant, LockRec.loaded, hset]

/-- A request queued at a held lock that cannot grant it stays in the queue: the record it leaves is lawful (R4, R12). -/
theorem LockRec.enqueue_of_not_grantable {e : Waiter} (h : r.Lawful) (he : r.enabled = true)
    (hh : r.heldBy e.port = false) (hq : r.queuedBy e.port = false) (hw : e.waitLaw = true) (hm : r.mode ≠ .free)
    (hs : r.mode = .shared → e.mode = .shared → r.queue ≠ []) :
    r.enqueue e = { record := { r with queue := r.queue ++ [e] } } := by
  obtain ⟨hmode, hnodup, hheld, hlease, hwait⟩ := h.unsettled.append he hh hq hw
  refine LockRec.reevaluate_of_lawful ⟨hmode, ⟨hnodup, hheld, ?_⟩, hlease, hwait⟩
  have hhead := h.2.1.2.2
  unfold LockRec.headLaw at hhead ⊢
  cases hqueue : r.queue with
  | nil =>
    have hne : ¬r.mode = .shared ∨ ¬e.mode = .shared := not_and_or.mp fun ⟨h1, h2⟩ => hs h1 h2 hqueue
    simpa [hm] using hne
  | cons x rest => simpa [hqueue] using hhead

/-! ### Quiet lock events with their posting -/

/-- Everything an event on one lock that hands out no bit does, with the posting of the command's result. -/
theorem State.onLock_post_record {g : LockRec → LockChange} {d : LockRec} {res : Result} {ws : List Word}
    (hg : g (s.lock l) = { record := d }) :
    let t := (s.onLock l g).post p code res ws
    t.lock l = d ∧ t.port p = (s.port p).posted code res ws
      ∧ s.SameOtherPorts t p ∧ s.SameOtherLocks t l ∧ s.SameChip t := by
  obtain ⟨hlock, _, _, _, hlocks, hchip⟩ :=
    State.onLock_post_spec (s := s) (p := p) (l := l) (g := g) (code := code) (res := res) (ws := ws)
  obtain ⟨hport, hports⟩ :=
    State.onLock_post_quiet (s := s) (p := p) (l := l) (g := g) (code := code) (res := res) (ws := ws)
      (by simp [hg]) (by simp [hg]) (by simp [hg])
  exact ⟨by rw [hlock, hg], hport, hports, hlocks, hchip⟩

/-! ### ACQUIRE -/

/-- Settles O19: the checks pass, and the request is grantable now. -/
theorem acquireGrantsAtOnce : Obligations.AcquireGrantsAtOnce := by
  intro s p l m h hl hm hf hn he hh hq hg
  obtain ⟨f, hf⟩ := exists_flag_of_word hf
  have hwork := acquireWork_decides hl he (acquireArgs_of hm hf hn) hh hq
  rw [State.decideAcquire, if_pos (LockRec.grantable_of hg)] at hwork
  obtain ⟨hlock, hport, hrest⟩ := State.onLock_post_record (s := s) (p := p) (l := l) (code := 0x10)
    (g := fun r => { record := r.grant m [p] }) (res := .granted)
    (ws := [ticksWord ((s.lock l).grant m [p]).leaseLeft]) rfl
  refine ⟨_, exec_acquire_of h hwork, ?_, ?_, hrest⟩
  · rw [hlock, LockRec.grant_singleton]
    cases m <;> rfl
  · rw [hlock, hport]

/-- Settles O20: without a grant ACQUIRE is refused, or queued at a lock whose record is then lawful. -/
theorem acquireWaitsOrIsRefused : Obligations.AcquireWaitsOrIsRefused := by
  intro s p l m h hlaw hl hm hn he hh hq hfree hs
  have hng : (s.lock l).grantable m = false := LockRec.not_grantable_of hfree hs
  have hdecide (f : Bool) (hf : s.arg p 2 = if f then 1 else 0) :=
    acquireWork_decides hl he (acquireArgs_of hm hf hn) hh hq
  refine ⟨fun hf => ?_, fun hf hpool => ?_, fun hf hpool => ?_⟩
  · have hwork := hdecide false hf
    rw [State.decideAcquire, if_neg (by simp [hng]), if_pos rfl] at hwork
    exact exec_acquire_of h hwork
  · have hwork := hdecide true hf
    rw [State.decideAcquire, if_neg (by simp [hng]), if_neg (by simp), if_pos hpool] at hwork
    exact exec_acquire_of h hwork
  · have hwork := hdecide true hf
    rw [State.decideAcquire, if_neg (by simp [hng]), if_neg (by simp), if_neg hpool] at hwork
    have hwait := waitLaw_of_acquireArgs (acquireArgs_of hm (f := true) hf hn) p m
    have hrecord := LockRec.enqueue_of_not_grantable hlaw he hh hq hwait hfree hs
    exact ⟨_, exec_acquire_of h hwork, State.onLock_post_record (g := fun r => r.enqueue _) hrecord⟩

/-- Settles O21: each check in its turn. -/
theorem acquireChecksInOrder : Obligations.AcquireChecksInOrder := by
  intro s p h
  refine ⟨fun hb => exec_acquire_of h (State.withLock_bad hb), fun l hl => ⟨fun he => ?_, fun he hbad => ?_, ?_⟩⟩
  · exact exec_acquire_of h (acquireWork_disabled hl he)
  · exact exec_acquire_of h (acquireWork_badArg hl he (acquireArgs_none hbad))
  · intro he hm hf hn
    obtain ⟨m, hm⟩ := exists_mode_of_word hm
    obtain ⟨f, hf⟩ := exists_flag_of_word hf
    have ha := acquireArgs_of hm hf hn
    exact ⟨fun hh => exec_acquire_of h (acquireWork_held hl he ha hh),
      fun hh hq => exec_acquire_of h (acquireWork_queued hl he ha hh hq)⟩

end Sys2Proof.Machine
end

section
/-! PROOF. Re-evaluation as the manual states it (R13, R14), and the lock commands that end in one: RELEASE, WITHDRAW and BREAK. -/

namespace Sys2Proof.Machine

variable {s : State} {p : Port} {l : LockNo} {r : LockRec}

/-! ### Re-evaluation -/

/-- A FREE lock with an EXCLUSIVE head grants the head alone (R13 case 1). -/
theorem LockRec.reevaluate_exclusive {e : Waiter} {rest : List Waiter} (hq : r.queue = e :: rest)
    (he : e.mode = .exclusive) (hm : r.mode = .free) :
    r.reevaluate = { record := { r.grant .exclusive [e.port] with queue := rest }, granted := PortSet.ofList [e.port] } := by
  rcases r.reevaluate_cases with ⟨_, hc⟩ | ⟨x, xs, hx, _, _, h⟩ | ⟨⟨x, xs, hx, hxe⟩, _, _⟩
  · simp [hq, hm] at hc
  · obtain ⟨rfl, rfl⟩ := List.cons.inj (hq.symm.trans hx)
    exact h
  · obtain ⟨rfl, rfl⟩ := List.cons.inj (hq.symm.trans hx)
    simp [he] at hxe

/-- A lock that is not EXCLUSIVE grants the SHARED entries that stand together at the head (R13 case 2). -/
theorem LockRec.reevaluate_shared {e : Waiter} {rest : List Waiter} (hq : r.queue = e :: rest)
    (he : e.mode = .shared) (hm : r.mode ≠ .exclusive) :
    r.reevaluate =
      { record := { r.grant .shared ((sharedBatch r.queue).map Waiter.port) with queue := afterBatch r.queue },
        granted := PortSet.ofList ((sharedBatch r.queue).map Waiter.port) } := by
  rcases r.reevaluate_cases with ⟨_, hc⟩ | ⟨x, xs, hx, hxe, _, _⟩ | ⟨_, _, h⟩
  · rcases hc with hc | hc | ⟨_, x, xs, hx, hxe⟩
    · simp [hq] at hc
    · exact absurd hc hm
    · obtain ⟨rfl, rfl⟩ := List.cons.inj (hq.symm.trans hx)
      simp [he] at hxe
  · obtain ⟨rfl, rfl⟩ := List.cons.inj (hq.symm.trans hx)
    simp [he] at hxe
  · exact h

/-- Every other lock is left as it is (R13). -/
theorem LockRec.reevaluate_none (h : r.queue = [] ∨ r.mode = .exclusive
    ∨ (r.mode = .shared ∧ ∃ e rest, r.queue = e :: rest ∧ e.mode = .exclusive)) : r.reevaluate = { record := r } := by
  rcases r.reevaluate_cases with ⟨he, _⟩ | ⟨x, xs, hx, _, hm, _⟩ | ⟨⟨x, xs, hx, hxe⟩, hm, _⟩
  · exact he
  · simp [hx, hm] at h
  · simp [hx, hxe, hm] at h

/-- The SHARED entries before an EXCLUSIVE one, or before the end, are the SHARED head batch. -/
theorem sharedBatch_append {batch rest : List Waiter} (hb : ∀ x ∈ batch, x.mode = .shared)
    (hr : ∀ x, rest.head? = some x → x.mode = .exclusive) :
    sharedBatch (batch ++ rest) = batch ∧ afterBatch (batch ++ rest) = rest := by
  have hb' : ∀ x ∈ batch, (x.mode == ReqMode.shared) = true := fun x hx => by simp [hb x hx]
  have htake : rest.takeWhile (fun x => x.mode == .shared) = [] ∧ rest.dropWhile (fun x => x.mode == .shared) = rest := by
    cases rest with
    | nil => exact ⟨rfl, rfl⟩
    | cons x xs => simp [hr x rfl]
  unfold sharedBatch afterBatch
  rw [List.takeWhile_append_of_pos hb', List.dropWhile_append_of_pos hb', htake.1, htake.2, List.append_nil]
  exact ⟨rfl, rfl⟩

/-- A port is in the ports of some entries exactly when one of the entries is its own. -/
theorem contains_map_port (es : List Waiter) (q : Port) : (es.map Waiter.port).contains q = es.any fun x => x.port == q := by
  rw [List.contains_eq_any_beq, List.any_map]
  exact congrArg es.any (funext fun x => Bool.beq_comm)

/-- Settles O22: one case of re-evaluation after the other. -/
theorem reevaluationGrantsOneBatch : Obligations.ReevaluationGrantsOneBatch := by
  intro r
  refine ⟨fun e rest hq he hm => ?_, fun e batch rest hq hb hr hm => ?_, fun hnone => ?_, r.reevaluate_revoked,
    r.reevaluate_waitEnd⟩
  · rw [LockRec.reevaluate_exclusive hq he hm, LockRec.grant_singleton, if_pos hm]
    exact ⟨rfl, rfl⟩
  · obtain ⟨hbatch, hafter⟩ := sharedBatch_append hb hr
    rw [LockRec.reevaluate_shared hq (hb e List.mem_cons_self) hm, hq, hbatch, hafter]
    refine ⟨rfl, rfl, fun q => ?_, fun q => ?_, rfl, rfl, rfl⟩
    · have hheld := LockRec.heldBy_grant (r := r) .shared ((e :: batch).map Waiter.port) q
      rwa [contains_map_port] at hheld
    · rw [PortSet.has_ofList, contains_map_port]
  · rw [LockRec.reevaluate_none hnone]
    exact ⟨rfl, rfl⟩

/-! ### RELEASE and RENEW -/

section
variable (hl : (s.arg p 0).toNat = l.val)
include hl

/-- R16. -/
theorem releaseWork_holder (hh : (s.lock l).heldBy p = true) :
    releaseWork p s = { state := s.onLock l fun r => r.release p, result := .ok } := by
  rw [releaseWork, State.withLock_of hl, if_pos hh]

/-- R17. -/
theorem releaseWork_other (hh : (s.lock l).heldBy p = false) :
    releaseWork p s = { state := s, result := s.notHolder p l } := by
  rw [releaseWork, State.withLock_of hl, if_neg (by simp [hh])]

/-- R18, for a holder. -/
theorem renewWork_holder (hh : (s.lock l).heldBy p = true) :
    renewWork p s =
      { state := s.onLock l fun r => { record := r.renewed }, result := .ok,
        words := [ticksWord (s.lock l).renewed.leaseLeft] } := by
  rw [renewWork, State.withLock_of hl, if_pos hh]

/-- R18, for a port that is no holder. -/
theorem renewWork_other (hh : (s.lock l).heldBy p = false) :
    renewWork p s = { state := s, result := s.notHolder p l } := by
  rw [renewWork, State.withLock_of hl, if_neg (by simp [hh])]

end

/-- Settles O23: a RELEASE drops the holder and re-evaluates. -/
theorem releaseByHolder : Obligations.ReleaseByHolder := by
  intro s p l h hl hh
  refine ⟨(s.lock l).dropHolder p, _, rfl, exec_release_of h (releaseWork_holder hl hh), ?_⟩
  have hspec := State.onLock_post_spec (s := s) (p := p) (l := l) (g := fun r => r.release p) (code := 0x11) (res := .ok)
    (ws := [])
  simpa only [LockRec.release, LockRec.reevaluate_revoked, LockRec.reevaluate_waitEnd] using hspec

/-- Settles O24: the REVOKED bit tells LATE from NOT_HOLDER. -/
theorem releaseAndRenewByOthers : Obligations.ReleaseAndRenewByOthers := by
  intro s p h
  refine ⟨fun hb => ⟨exec_release_of h (State.withLock_bad hb), exec_renew_of h (State.withLock_bad hb)⟩,
    fun l hl hh => ?_⟩
  have hrelease := exec_release_of h (releaseWork_other hl hh)
  have hrenew := exec_renew_of h (renewWork_other hl hh)
  refine ⟨fun hlate => ?_, fun hlate => ?_⟩
  · rw [show s.notHolder p l = .late from if_pos hlate] at hrelease hrenew
    exact ⟨hrelease, hrenew⟩
  · rw [show s.notHolder p l = .notHolder from if_neg (by simp [hlate])] at hrelease hrenew
    exact ⟨hrelease, hrenew⟩

/-- Settles O25: a RENEW reloads the lease of a leased lock. -/
theorem renewReloadsTheLease : Obligations.RenewReloadsTheLease := by
  intro s p l h hl hh
  obtain ⟨hlock, hport, hrest⟩ := State.onLock_post_record (s := s) (p := p) (l := l) (code := 0x12)
    (g := fun r => { record := r.renewed }) (res := .ok) (ws := [ticksWord (s.lock l).renewed.leaseLeft]) rfl
  refine ⟨_, exec_renew_of h (renewWork_holder hl hh), fun h0 => ?_, fun h0 => ?_, ?_, hrest⟩
  · rw [hlock, LockRec.renewed, if_neg h0]
  · rw [hlock, LockRec.renewed, if_pos h0]
  · rw [hlock, hport]

/-! ### WITHDRAW -/

section
variable (hl : (s.arg p 0).toNat = l.val)
include hl

/-- R19. -/
theorem withdrawWork_queued (hq : (s.lock l).queuedBy p = true) :
    withdrawWork p s = { state := s.onLock l fun r => r.withdraw p, result := .ok } := by
  rw [withdrawWork, State.withLock_of hl, if_pos hq]

/-- R20. -/
theorem withdrawWork_absent (hq : (s.lock l).queuedBy p = false) :
    withdrawWork p s = { state := s, result := if (s.lock l).heldBy p then .held else .notQueued } := by
  rw [withdrawWork, State.withLock_of hl, if_neg (by simp [hq])]

end

/-- Settles O26: a WITHDRAW drops the entry and re-evaluates. -/
theorem withdrawTakesBackTheRequest : Obligations.WithdrawTakesBackTheRequest := by
  intro s p h
  refine ⟨fun hb => exec_withdraw_of h (State.withLock_bad hb), fun l hl => ⟨fun hq => ?_, fun hq hh => ?_, fun hq hh => ?_⟩⟩
  · refine ⟨(s.lock l).dropWaiter p, _, rfl, exec_withdraw_of h (withdrawWork_queued hl hq), ?_⟩
    have hspec := State.onLock_post_spec (s := s) (p := p) (l := l) (g := fun r => r.withdraw p) (code := 0x13) (res := .ok)
      (ws := [])
    simpa only [LockRec.withdraw, LockRec.reevaluate_revoked, LockRec.reevaluate_waitEnd] using hspec
  · have hwork := withdrawWork_absent hl hq
    rw [if_pos hh] at hwork
    exact exec_withdraw_of h hwork
  · have hwork := withdrawWork_absent hl hq
    rw [if_neg (by simp [hh])] at hwork
    exact exec_withdraw_of h hwork

/-! ### SET_LOCK and BREAK -/

section
variable (hl : (s.arg p 0).toNat = l.val)
include hl

/-- R22 check 2. -/
theorem setLockWork_badArg (ha : setLockArgs (s.arg p 1) (s.arg p 2) = none) :
    setLockWork p s = { state := s, result := .badArg } := by
  rw [setLockWork, State.withLock_of hl, ha]

/-- R22 check 3. -/
theorem setLockWork_inUse {e : Bool} {n : Nat} (ha : setLockArgs (s.arg p 1) (s.arg p 2) = some (e, n))
    (hu : (s.lock l).holders ≠ 0 ∨ (s.lock l).queue ≠ []) : setLockWork p s = { state := s, result := .inUse } := by
  rw [setLockWork, State.withLock_of hl, ha]
  exact if_pos hu

/-- R22, the write. -/
theorem setLockWork_writes {e : Bool} {n : Nat} (ha : setLockArgs (s.arg p 1) (s.arg p 2) = some (e, n))
    (hh : (s.lock l).holders = 0) (hq : (s.lock l).queue = []) :
    setLockWork p s =
      { state := s.onLock l fun r => { record := { r with enabled := e, leaseLength := n } }, result := .ok } := by
  rw [setLockWork, State.withLock_of hl, ha]
  exact if_neg (by simp [hh, hq])

/-- R24, the malformed flush flag. -/
theorem breakWork_badArg (ha : flagField (s.arg p 1) = none) : breakWork p s = { state := s, result := .badArg } := by
  rw [breakWork, State.withLock_of hl, ha]

/-- R24, R25. -/
theorem breakWork_breaks {flush : Bool} (ha : flagField (s.arg p 1) = some flush) :
    breakWork p s = { state := s.onLock l fun r => r.broken flush, result := .ok } := by
  rw [breakWork, State.withLock_of hl, ha]

end

/-- SET_LOCK's fields are accepted (R22 check 2). -/
theorem setLockArgs_of {a b : Word} {e : Bool} (h1 : a = if e then 1 else 0) (h2 : b.toNat ≤ 1023) :
    setLockArgs a b = some (e, b.toNat) := by
  unfold setLockArgs
  rw [flagField_of h1, rangeField_of (b := Config.mostTicks) (Nat.zero_le _) h2]

/-- SET_LOCK's fields are refused (R22 check 2). -/
theorem setLockArgs_none {a b : Word} (h : 1 < a.toNat ∨ 1023 < b.toNat) : setLockArgs a b = none := by
  unfold setLockArgs
  rcases h with h | h
  · rw [flagField_none h]
  · rw [rangeField_none (b := Config.mostTicks) (.inr h)]
    cases flagField a <;> rfl

/-- Settles O28: each check of SET_LOCK in its turn, and the write. -/
theorem setLockWritesAFreeLock : Obligations.SetLockWritesAFreeLock := by
  intro s p h hk
  refine ⟨fun hb => exec_setLock_of h hk (State.withLock_bad hb), fun l hl => ⟨fun hbad => ?_, fun e he hn => ?_⟩⟩
  · exact exec_setLock_of h hk (setLockWork_badArg hl (setLockArgs_none hbad))
  · have ha := setLockArgs_of he hn
    refine ⟨fun hu => exec_setLock_of h hk (setLockWork_inUse hl ha hu), fun hh hq => ?_⟩
    exact ⟨_, exec_setLock_of h hk (setLockWork_writes hl ha hh hq),
      State.onLock_post_record (g := fun r => { record := { r with enabled := e, leaseLength := _ } }) rfl⟩

/-- A BREAK with flush leaves the lock FREE with an empty queue, and grants nothing (R24, R25). -/
theorem LockRec.broken_flush (r : LockRec) :
    r.broken true =
      { record := { r.freed with queue := [] }, revoked := r.holders, waitEnd := PortSet.ofList (r.queue.map Waiter.port) } := by
  unfold LockRec.broken
  rw [if_pos rfl, LockRec.reevaluate_none (.inl rfl)]

/-- A BREAK without flush re-evaluates the freed lock (R24, R25). -/
theorem LockRec.broken_keep (r : LockRec) :
    r.broken false = { record := r.freed.reevaluate.record, granted := r.freed.reevaluate.granted, revoked := r.holders } := by
  unfold LockRec.broken
  rw [if_neg (by simp)]
  simp

/-- Settles O29: BREAK with and without flush. -/
theorem breakRevokesAndFlushes : Obligations.BreakRevokesAndFlushes := by
  intro s p h hk
  refine ⟨fun hb => exec_breakLock_of h hk (State.withLock_bad hb), fun l hl => ⟨fun hbad => ?_, fun hf => ?_, fun hf => ?_⟩⟩
  · exact exec_breakLock_of h hk (breakWork_badArg hl (flagField_none hbad))
  · refine ⟨_, exec_breakLock_of h hk (breakWork_breaks hl (flagField_of (e := true) hf)), ?_⟩
    have hspec := State.onLock_post_spec (s := s) (p := p) (l := l) (g := fun r => r.broken true) (code := 0x19)
      (res := .ok) (ws := [])
    rwa [LockRec.broken_flush] at hspec
  · refine ⟨(s.lock l).freed, _, rfl, exec_breakLock_of h hk (breakWork_breaks hl (flagField_of (e := false) hf)), ?_⟩
    have hspec := State.onLock_post_spec (s := s) (p := p) (l := l) (g := fun r => r.broken false) (code := 0x19)
      (res := .ok) (ws := [])
    rwa [LockRec.broken_keep] at hspec

end Sys2Proof.Machine
end

section
/-! PROOF. LOCK_STATUS: the result words of a lock record, field by field (R21, R185, Table 10-7). -/

namespace Sys2Proof.Machine

variable {s : State} {p : Port} {l : LockNo}

/-- A field of a word that reads 0. -/
theorem extract_eq_zero {n i m : Nat} {x : BitVec n} (h : x.toNat / 2 ^ i % 2 ^ m = 0) : x.extractLsb' i m = 0 :=
  BitVec.eq_of_toNat_eq (by rw [toNat_extract, h]; rfl)

/-- The bits of RES0 that the layout does not assign read 0 (R185). -/
theorem LockRec.summary_unassigned (r : LockRec) : r.summary.extractLsb' 10 6 = 0 ∧ r.summary.getLsbD 3 = false := by
  have hholders := r.holders.isLt
  have hmode := r.mode.code.isLt
  have henabled := Bool.toNat_le r.enabled
  refine ⟨?_, ?_⟩
  · apply extract_eq_zero
    rw [LockRec.summary_toNat]
    omega
  · rw [getLsbD_eq, LockRec.summary_toNat, decide_eq_false_iff_not]
    omega

/-- The first word of a queue position that holds an entry, as a number (Table 10-7). -/
theorem entryWords_some (e : Waiter) : ∃ w : Word, entryWords (some e) = [w, ticksWord e.wait]
    ∧ w.toNat = 32768 + e.mode.code.toNat * 256 + e.port.val := by
  have hport := e.port.isLt
  refine ⟨_, rfl, ?_⟩
  have hpack : (1#1 ++ 0#5 ++ e.mode.code ++ 0#6 ++ BitVec.ofNat 2 e.port.val : BitVec (1 + 5 + 2 + 6 + 2)).toNat
      = 32768 + e.mode.code.toNat * 256 + e.port.val := by
    simp only [toNat_pack, BitVec.toNat_ofNat]
    omega
  exact hpack

/-- The fields of that word (Table 10-7); the bits that the layout does not assign read 0 (R185). -/
theorem entryWord_fields {e : Waiter} {w : Word} (h : w.toNat = 32768 + e.mode.code.toNat * 256 + e.port.val) :
    w.getLsbD 15 = true ∧ w.extractLsb' 8 2 = e.mode.code ∧ (w.extractLsb' 0 2).toNat = e.port.val
      ∧ w.extractLsb' 10 5 = 0 ∧ w.extractLsb' 2 6 = 0 := by
  have hmode := e.mode.code.isLt
  have hport := e.port.isLt
  refine ⟨?_, ?_, ?_, ?_, ?_⟩
  · rw [getLsbD_eq, h, decide_eq_true_eq]
    omega
  · apply BitVec.eq_of_toNat_eq
    rw [toNat_extract, h]
    omega
  · rw [toNat_extract, h]
    omega
  · apply extract_eq_zero
    rw [h]
    omega
  · apply extract_eq_zero
    rw [h]
    omega

@[simp] theorem entryWords_length (o : Option Waiter) : (entryWords o).length = 2 := by
  cases o <;> rfl

/-- Each queue position has two words behind the first three (Table 10-7). -/
theorem LockRec.statusWords_entry (r : LockRec) (k : Fin 3) :
    r.statusWords[3 + 2 * k.val]? = (entryWords r.queue[k.val]?)[0]?
      ∧ r.statusWords[4 + 2 * k.val]? = (entryWords r.queue[k.val]?)[1]? := by
  have hpair (o : Option Waiter) : ∃ a b, entryWords o = [a, b] := by cases o <;> exact ⟨_, _, rfl⟩
  obtain ⟨a0, b0, h0⟩ := hpair r.queue[0]?
  obtain ⟨a1, b1, h1⟩ := hpair r.queue[1]?
  obtain ⟨a2, b2, h2⟩ := hpair r.queue[2]?
  rw [LockRec.statusWords, h0, h1, h2]
  match k with
  | 0 => exact ⟨(congrArg (·[0]?) h0).symm, (congrArg (·[1]?) h0).symm⟩
  | 1 => exact ⟨(congrArg (·[0]?) h1).symm, (congrArg (·[1]?) h1).symm⟩
  | 2 => exact ⟨(congrArg (·[0]?) h2).symm, (congrArg (·[1]?) h2).symm⟩

/-- Settles O27: LOCK_STATUS posts the status words, and their fields are the record's. -/
theorem lockStatusReportsTheLock : Obligations.LockStatusReportsTheLock := by
  intro s p h
  refine ⟨fun hb => exec_lockStatus_of h (State.withLock_bad hb), fun l hl => ?_⟩
  have hwork : lockStatusWork p s = { state := s, result := .ok, words := (s.lock l).statusWords } := State.withLock_of hl
  refine ⟨_, exec_lockStatus_of h hwork, by simp [LockRec.statusWords], fun w hw => ?_, rfl, ?_,
    fun k => ⟨fun hk => ?_, fun e hk => ?_⟩⟩
  · obtain rfl : (s.lock l).summary = w := Option.some.inj hw
    obtain ⟨henabled, hmode, hholders, hlength⟩ := (s.lock l).summary_fields
    obtain ⟨hhigh, hlow⟩ := (s.lock l).summary_unassigned
    refine ⟨henabled, hmode, hholders, hhigh, hlow, fun hlaw => ?_⟩
    have := hlaw.queue_length_le
    omega
  · show some (ticksWord (s.lock l).leaseLeft) = _
    cases (s.lock l).leaseLeft <;> rfl
  · obtain ⟨h0, h1⟩ := (s.lock l).statusWords_entry k
    rw [h0, h1, hk]
    exact ⟨rfl, rfl⟩
  · obtain ⟨h0, h1⟩ := (s.lock l).statusWords_entry k
    obtain ⟨v, hv, hnum⟩ := entryWords_some e
    rw [h0, h1, hk, hv]
    refine ⟨fun w hw => ?_, ?_⟩
    · obtain rfl : v = w := Option.some.inj hw
      exact entryWord_fields hnum
    · cases e.wait <;> rfl

end Sys2Proof.Machine
end

section
/-! PROOF. The lease timer and the configuration commands: the event LEASE_TICK and a CLK period (R31, R36), the two expiries as events
of their own (R38, R39, R41), and SET_TICK, SET_DEFAULT_RIGHTS and SET_QUOTA (R33, R70, R136). -/

namespace Sys2Proof.Machine

variable {s : State} {p q : Port} {l : LockNo} {r : LockRec}

/-! ### The tick on one lock record -/

/-- Step 1 of R36 on a lawful record: the entries with one tick left leave. -/
theorem LockRec.countWaits_of_law (h : ∀ e ∈ r.queue, e.waitLaw = true) :
    r.countWaits = { r with
      queue := (r.queue.filter fun e => e.wait != some 1).map fun e => { e with wait := e.wait.map fun n => n - 1 } } := by
  have hfilter : (r.queue.filter fun e => !e.expiring) = r.queue.filter fun e => e.wait != some 1 :=
    List.filter_congr fun e he => by rw [Waiter.expiring_of_law (h e he)]; rfl
  rw [LockRec.countWaits, hfilter]
  rfl

/-- The ports whose waits end at a tick of a lawful record are those of the entries with one tick left (R38). -/
theorem LockRec.endedWaits_has_of_law (h : ∀ e ∈ r.queue, e.waitLaw = true) (q : Port) :
    r.endedWaits.has q = r.queue.any fun e => e.port == q && e.wait == some 1 := by
  have hfilter : r.queue.filter Waiter.expiring = r.queue.filter fun e => e.wait == some 1 :=
    List.filter_congr fun e he => Waiter.expiring_of_law (h e he)
  rw [LockRec.endedWaits, hfilter, PortSet.has_ofList, contains_map_port, List.any_filter]
  simp only [Bool.and_comm]

/-- Step 2 of R36, the lease of a lawful record: one tick left ends it, and more than one is reduced. -/
theorem LockRec.countLease_of_law (h : r.leaseLaw = true) (d : LockRec) (hd : d.leaseLeft = r.leaseLeft) :
    d.countLease =
      if r.leaseLeft = some 1 then { d with holders := 0, mode := .free, leaseLeft := none }
      else { d with leaseLeft := r.leaseLeft.map fun n => n - 1 } := by
  have hends : d.leaseEnds = decide (r.leaseLeft = some 1) := by
    rw [← LockRec.leaseEnds_of_law h, LockRec.leaseEnds, LockRec.leaseEnds, hd]
  rw [LockRec.countLease, hends, hd]
  simp only [decide_eq_true_eq, LockRec.freed]

/-! ### The lease tick -/

/-- A tick leaves of a port's record all but its GRANTED, REVOKED and WAITEND sets. -/
theorem State.noLockBits_tick (s : State) (q : Port) : (s.tick.port q).noLockBits = (s.port q).noLockBits := by
  rw [State.tick, State.port_lockEvent, PortState.addLockBits]
  split <;> rfl

/-- The sets of a port after a tick (R29, R36, R159). -/
theorem State.tick_bits (s : State) (q : Port) (l : LockNo) :
    (s.tick.port q).granted.has l = ((s.port q).granted.has l || (s.attached q && (s.lock l).tick.granted.has q))
      ∧ (s.tick.port q).revoked.has l = ((s.port q).revoked.has l || (s.attached q && (s.lock l).tick.revoked.has q))
      ∧ (s.tick.port q).waitEnd.has l = ((s.port q).waitEnd.has l || (s.attached q && (s.lock l).tick.waitEnd.has q)) :=
  ⟨State.lockEvent_granted_has .., State.lockEvent_revoked_has .., State.lockEvent_waitEnd_has ..⟩

theorem State.lock_tick (s : State) (l : LockNo) : s.tick.lock l = (s.lock l).tick.record := State.lock_lockEvent ..

/-- LEASE_TICK while RESETn is asserted changes nothing (log entry 8). -/
theorem exec_leaseTick_in_reset (h : s.resetAsserted = true) : exec .leaseTick s = .next s :=
  congrArg Host.Outcome.next (if_pos h)

/-- LEASE_TICK out of reset takes the tick (R31, R36). -/
theorem exec_leaseTick_ticks (h : s.resetAsserted = false) : exec .leaseTick s = .next s.tick :=
  congrArg Host.Outcome.next (if_neg (by simp [h]))

/-- Settles O31: the tick's work on a lawful record, lock by lock, and the frame of a lock-table event. -/
theorem leaseTickCountsEveryLock : Obligations.LeaseTickCountsEveryLock := by
  intro s hlaw
  refine ⟨exec_leaseTick_in_reset, fun hr => ⟨s.tick, exec_leaseTick_ticks hr, rfl, fun l => ?_, s.noLockBits_tick, ?_⟩⟩
  · obtain ⟨_, _, hlease, hwaits⟩ := hlaw l
    have hcounted := LockRec.countLease_of_law hlease (s.lock l).countWaits rfl
    rw [LockRec.countWaits_of_law hwaits] at hcounted
    have htick : (s.lock l).tick.record = (s.lock l).countWaits.countLease.reevaluate.record ∧
        (s.lock l).tick.granted = (s.lock l).countWaits.countLease.reevaluate.granted := ⟨rfl, rfl⟩
    rw [LockRec.countWaits_of_law hwaits, hcounted] at htick
    refine ⟨_, _, rfl, rfl, (s.lock_tick l).trans htick.1, fun q => ?_⟩
    obtain ⟨hgranted, hrevoked, hwaitEnd⟩ := s.tick_bits q l
    refine ⟨by rw [hgranted, htick.2], ?_, ?_⟩
    · have hbits : (s.lock l).tick.revoked.has q = (decide ((s.lock l).leaseLeft = some 1) && (s.lock l).heldBy q) := by
        rw [← LockRec.leaseEnds_of_law hlease, LockRec.tick, LockRec.heldBy]
        cases (s.lock l).leaseEnds <;> simp
      rw [hrevoked, hbits]
    · have hbits : (s.lock l).tick.waitEnd.has q = _ := LockRec.endedWaits_has_of_law hwaits q
      rw [hwaitEnd, hbits]
  · exact ⟨rfl, rfl, rfl, rfl, fun _ => rfl, rfl, rfl, rfl, rfl, rfl⟩

/-! ### A CLK period -/

theorem State.clkPeriod_in_reset (h : s.resetAsserted = true) : s.clkPeriod = s := if_pos h

theorem State.clkPeriod_counts (h : s.resetAsserted = false) (hc : s.count + 1 < s.tickPeriod) :
    s.clkPeriod = { s with count := s.count + 1 } := by
  rw [State.clkPeriod, if_neg (by simp [h]), if_neg (by omega)]

theorem State.clkPeriod_ticks (h : s.resetAsserted = false) (hc : s.tickPeriod ≤ s.count + 1) : s.clkPeriod = s.tick := by
  rw [State.clkPeriod, if_neg (by simp [h]), if_pos hc]

/-- A step on an empty queue with no bus to answer is a CLK period (log entry 7). -/
theorem step_clkPeriod (hp : s.pending = []) (hr : s.readyCycle = none) : step s = .next s.clkPeriod := by
  simp [step, hp, State.idleStep, hr]

/-- Settles O2: the idle step is a CLK period, and each of its three cases. -/
theorem idleStepIsOneClockPeriod : Obligations.IdleStepIsOneClockPeriod := by
  intro s hp hr
  refine ⟨_, step_clkPeriod hp hr, State.clkPeriod_in_reset, State.clkPeriod_counts, fun hreset hcount => ?_⟩
  rw [State.clkPeriod_ticks hreset hcount]
  exact ⟨rfl, rfl, s.lock_tick, exec_leaseTick_ticks hreset⟩

/-! ### The two expiries -/

/-- An entry with one tick left expires: it leaves, and the lock is re-evaluated (R38, R39). -/
theorem LockRec.waitExpiry_ends {e : Waiter} (he : e ∈ r.queue) (hp : e.port = p) (hw : e.wait = some 1) :
    r.waitExpiry p =
      { record := (r.dropWaiter p).reevaluate.record, granted := (r.dropWaiter p).reevaluate.granted,
        waitEnd := PortSet.ofList [p] } := by
  have hany : (r.queue.any fun e => e.port == p && e.expiring) = true :=
    List.any_eq_true.mpr ⟨e, he, by simp [hp, Waiter.expiring, hw]⟩
  rw [LockRec.waitExpiry, if_pos hany]
  simp only [LockRec.reevaluate_revoked]

/-- Where the port has no entry with one tick left, nothing expires (log entry 5). -/
theorem LockRec.waitExpiry_idle (h : ∀ e ∈ r.queue, e.waitLaw = true) (hw : ∀ e ∈ r.queue, e.port = p → e.wait ≠ some 1) :
    r.waitExpiry p = { record := r } := by
  refine if_neg fun hany => ?_
  obtain ⟨e, he, hx⟩ := List.any_eq_true.mp hany
  rw [Waiter.expiring_of_law (h e he), Bool.and_eq_true, beq_iff_eq, beq_iff_eq] at hx
  exact hw e he hx.1 hx.2

/-- A lease with one tick left ends, and the freed lock is re-evaluated (R41). -/
theorem LockRec.leaseExpiry_ends (h : r.leaseLeft = some 1) :
    r.leaseExpiry =
      { record := r.freed.reevaluate.record, granted := r.freed.reevaluate.granted, revoked := r.holders } := by
  have hends : r.leaseEnds = true := by rw [LockRec.leaseEnds, h]; rfl
  rw [LockRec.leaseExpiry, if_pos hends]
  simp only [LockRec.reevaluate_waitEnd]

/-- Where the lease has not one tick left, nothing expires (log entry 5). -/
theorem LockRec.leaseExpiry_idle (h : r.leaseLaw = true) (hw : r.leaseLeft ≠ some 1) : r.leaseExpiry = { record := r } := by
  refine if_neg ?_
  rw [LockRec.leaseEnds_of_law h, decide_eq_true_eq]
  exact hw

/-- Settles O32: each expiry as an event on its lock, and the cases where nothing expires. -/
theorem expiriesEndWaitsAndLeases : Obligations.ExpiriesEndWaitsAndLeases := by
  intro s l hlaw
  obtain ⟨_, _, hlease, hwaits⟩ := hlaw
  refine ⟨fun p => ⟨fun ⟨e, he, hp, hw⟩ => ?_, fun hidle => ?_⟩, fun hends => ?_, fun hidle => ?_⟩
  · refine ⟨(s.lock l).dropWaiter p, _, rfl, rfl, ?_⟩
    have hspec := State.onLock_spec (s := s) (l := l) (g := fun r => r.waitExpiry p)
    rwa [LockRec.waitExpiry_ends he hp hw] at hspec
  · exact congrArg Host.Outcome.next (s.onLock_id (LockRec.waitExpiry_idle hwaits hidle))
  · refine ⟨(s.lock l).freed, _, rfl, rfl, ?_⟩
    have hspec := State.onLock_spec (s := s) (l := l) (g := LockRec.leaseExpiry)
    rwa [LockRec.leaseExpiry_ends hends] at hspec
  · exact congrArg Host.Outcome.next (s.onLock_id (LockRec.leaseExpiry_idle hlease hidle))

/-! ### The configuration commands -/

/-- SET_QUOTA's fields are accepted (R136 check 1). -/
theorem quotaArgs_of {a b : Word} (h1 : a.toNat = q.val) (h2 : b.toNat ≤ 32) : quotaArgs a b = some (q, b.toNat) := by
  rw [quotaArgs, portField_of h1, rangeField_of (b := Config.largestQuota) (Nat.zero_le _) h2]

/-- SET_QUOTA's fields are refused (R136 check 1). -/
theorem quotaArgs_none {a b : Word} (h : 3 < a.toNat ∨ 32 < b.toNat) : quotaArgs a b = none := by
  unfold quotaArgs
  rcases h with h | h
  · rw [portField_none h]
  · rw [rangeField_none (b := Config.largestQuota) (.inr h)]
    cases portField a <;> rfl

theorem setTickWork_badArg (h : 255 < (s.arg p 0).toNat) : setTickWork p s = { state := s, result := .badArg } := by
  rw [setTickWork, byteField_none h]

theorem setTickWork_writes (h : (s.arg p 0).toNat ≤ 255) :
    setTickWork p s = { state := { s with divider := (s.arg p 0).setWidth 8, count := 0 }, result := .ok } := by
  rw [setTickWork, byteField_of h]

theorem setDefaultRightsWork_badArg (h : 256 ≤ (s.arg p 0).toNat) :
    setDefaultRightsWork p s = { state := s, result := .badArg } := by
  rw [setDefaultRightsWork, rightsField_none h]

theorem setDefaultRightsWork_writes (h : (s.arg p 0).toNat < 256) :
    setDefaultRightsWork p s = { state := { s with defaultRights := (s.arg p 0).setWidth 8 }, result := .ok } := by
  rw [setDefaultRightsWork, rightsField_of h]

theorem setQuotaWork_badArg (h : 3 < (s.arg p 0).toNat ∨ 32 < (s.arg p 1).toNat) :
    setQuotaWork p s = { state := s, result := .badArg } := by
  rw [setQuotaWork, quotaArgs_none h]

section
variable (hq : (s.arg p 0).toNat = q.val) (hn : (s.arg p 1).toNat ≤ 32)
include hq hn

theorem setQuotaWork_inUse (h : (s.arg p 1).toNat < (s.port q).inbox.length) :
    setQuotaWork p s = { state := s, result := .inUse } := by
  rw [setQuotaWork, quotaArgs_of hq hn]
  exact if_pos h

theorem setQuotaWork_writes (h : (s.port q).inbox.length ≤ (s.arg p 1).toNat) :
    setQuotaWork p s = { state := s.onPort q fun r => { r with quota := (s.arg p 1).toNat }, result := .ok } := by
  rw [setQuotaWork, quotaArgs_of hq hn]
  exact if_neg (Nat.not_lt.mpr h)

end

section
variable {a : Reply} (h : s.CanCommand p) (hk : s.isControl p = true)
include h hk

theorem exec_setTick_of (hw : setTickWork p s = a) : exec (.setTick p) s = .next (a.state.post p 0x1A a.result a.words) :=
  exec_control h hk hw rfl rfl rfl rfl

theorem exec_setDefaultRights_of (hw : setDefaultRightsWork p s = a) :
    exec (.setDefaultRights p) s = .next (a.state.post p 0x29 a.result a.words) := exec_control h hk hw rfl rfl rfl rfl

theorem exec_setQuota_of (hw : setQuotaWork p s = a) : exec (.setQuota p) s = .next (a.state.post p 0x48 a.result a.words) :=
  exec_control h hk hw rfl rfl rfl rfl

end

/-- Settles O30: each check of the three commands, and each write. -/
theorem configurationCommandsWriteTheirWords : Obligations.ConfigurationCommandsWriteTheirWords := by
  intro s p h hk
  refine ⟨fun ht => ?_, fun ht => ?_, fun hr => ?_, fun hr => ?_, fun hbad => ?_, fun q hq hn => ⟨fun hlen => ?_, fun hlen => ?_⟩⟩
  · exact exec_setTick_of h hk (setTickWork_badArg ht)
  · exact exec_setTick_of h hk (setTickWork_writes ht)
  · exact exec_setDefaultRights_of h hk (setDefaultRightsWork_badArg hr)
  · exact exec_setDefaultRights_of h hk (setDefaultRightsWork_writes hr)
  · exact exec_setQuota_of h hk (setQuotaWork_badArg hbad)
  · exact exec_setQuota_of h hk (setQuotaWork_inUse hq hn hlen)
  · exact exec_setQuota_of h hk (setQuotaWork_writes hq hn hlen)

end Sys2Proof.Machine
end

section
/-! PROOF. What a command or event can do as a whole, said once, and the law of the lease timer (R31): only SET_TICK, the tick, a CLK
period and RESETn write the tick divider or the running count. -/

namespace Sys2Proof.Machine

variable {s t u : State} {p q : Port} {l : LockNo} {c : Instr}

/-! ### What a command or event can do -/

/-- Everything the meaning of a command or event can do: the start of a well-formed cycle of a port, a grant of the arbiter, an event
of the lease timer, a reset, the early end of an unanswered cycle, or nothing. -/
inductive State.Executed (s : State) : State → Prop where
  | nothing : s.Executed s
  | start (p : Port) (c : Instr) (hw : c.wellFormed = true) (hp : c.port? = some p) : s.Executed (s.cycle p c)
  | grantPort (p : Port) (h : s.choice = some (.port p)) :
      s.Executed (takeHeld p (s.port p).cycleEnded (s.port p).held (s.grantPort p))
  | grantEngine : s.Executed s.grantEngine
  | tick : s.Executed s.tick
  | waitExpiry (l : LockNo) (p : Port) : s.Executed (s.onLock l fun r => r.waitExpiry p)
  | leaseExpiry (l : LockNo) : s.Executed (s.onLock l fun r => r.leaseExpiry)
  | assertReset : s.Executed s.assertReset
  | negateReset (csel : Port) : s.Executed (s.negateReset csel)
  | assertPortReset (p : Port) : s.Executed (s.assertPortReset p)
  | negatePortReset (p : Port) : s.Executed (s.negatePortReset p)
  | endEarly (p : Port) (h : (s.port p).busy = true) : s.Executed (s.onPort p fun r => { r with cycleEnded := true })

/-- A command or event that has a meaning is well formed (log entry 11). -/
theorem wellFormed_of_exec (h : exec c s = .next t) : c.wellFormed = true := by
  cases c with
  | badCommand q w =>
    cases ha : assignedCode w with
    | true => simp [exec, execBadCommand, ha] at h
    | false => simp [Instr.wellFormed, ha]
  | _ => rfl

theorem exec_cases (h : exec c s = .next t) : s.Executed t := by
  cases hp : c.port? with
  | some p => rw [exec_next_cycle hp h]; exact .start p c (wellFormed_of_exec h) hp
  | none =>
    cases c with
    | apertureAccess =>
      simp only [exec, execApertureAccess, Host.Outcome.next.injEq] at h
      subst h
      split
      · next p hc => exact .grantPort p hc
      · exact .nothing
      · exact .nothing
    | copyWordMove =>
      simp only [exec, execCopyWordMove, Host.Outcome.next.injEq] at h
      subst h
      split
      · exact .grantEngine
      · exact .nothing
      · exact .nothing
    | leaseTick =>
      simp only [exec, execLeaseTick, Host.Outcome.next.injEq] at h
      subst h
      split
      · exact .nothing
      · exact .tick
    | waitExpiry l p => cases h; exact .waitExpiry l p
    | leaseExpiry l => cases h; exact .leaseExpiry l
    | resetnAsserted => cases h; exact .assertReset
    | resetnNegated csel => cases h; exact .negateReset csel
    | prstnAsserted p => cases h; exact .assertPortReset p
    | prstnNegated p => cases h; exact .negatePortReset p
    | cycleEndedEarly p =>
      simp only [exec, execCycleEndedEarly, State.endCycleEarly, Host.Outcome.next.injEq] at h
      subst h
      split
      · next hb => exact .endEarly p hb
      · exact .nothing
    | _ => cases hp

/-- A law that does not read the model's queue, and that the commands and events, the bus steps and the CLK periods keep, is kept by
every step. -/
theorem keptByStep_of_executed {P : State → Prop} (hqueue : ∀ s rest, P s → P { s with pending := rest })
    (hexec : ∀ s t : State, s.Executed t → P s → P t) (hbus : ∀ s p, s.readyCycle = some p → P s → P (s.busStep p))
    (hclk : ∀ s, P s → P s.clkPeriod) : KeptByStep P := by
  intro s t hs h
  rcases step_cases h with ⟨c, rest, _, hx⟩ | ⟨p, _, hr, rfl⟩ | ⟨_, _, rfl⟩
  · exact hexec _ _ (exec_cases hx) (hqueue s rest hs)
  · exact hbus s p hr hs
  · exact hclk s hs

/-! ### Changes that leave the lease timer alone -/

/-- The tick divider, the running count and the level of RESETn are as before. -/
structure State.TimerSame (s t : State) : Prop where
  divider : t.divider = s.divider
  count : t.count = s.count
  reset : t.resetAsserted = s.resetAsserted

theorem State.TimerSame.refl (s : State) : s.TimerSame s := ⟨rfl, rfl, rfl⟩

theorem State.TimerSame.law (h : s.TimerSame t) (hs : s.TimerLaw) : t.TimerLaw := by
  obtain ⟨hbelow, hreset⟩ := hs
  refine ⟨?_, fun hr => ?_⟩
  · rw [h.count, State.tickPeriod, h.divider]
    exact hbelow
  · rw [h.count]
    exact hreset (h.reset ▸ hr)

/-- A running count of 0 is lawful whatever the tick divider is. -/
theorem State.timerLaw_of_count_zero (h : s.count = 0) : s.TimerLaw := by
  refine ⟨?_, fun _ => h⟩
  rw [h]
  exact Nat.mul_pos (Nat.succ_pos _) (by decide)

theorem State.TimerSame.withLock {k : LockNo → Reply} (hk : ∀ l, s.TimerSame (k l).state) :
    s.TimerSame (s.withLock q k).state := by
  unfold State.withLock
  split
  · exact .refl s
  · exact hk _

theorem State.TimerSame.issue {work : State → Reply} (h : s.TimerSame (work s).state) : s.TimerSame (s.issue c p work) :=
  State.issue_keeps (P := fun t => s.TimerSame t) (.refl s) (fun _ _ _ _ ht => ⟨ht.divider, ht.count, ht.reset⟩) fun _ => h

/-! ### The work of the commands -/

theorem acquireWork_timer : s.TimerSame (acquireWork p s).state := by
  refine .withLock fun l => ?_
  unfold State.decideAcquire
  repeat' split
  all_goals exact ⟨rfl, rfl, rfl⟩

theorem releaseWork_timer : s.TimerSame (releaseWork p s).state := by
  refine .withLock fun l => ?_
  split <;> exact ⟨rfl, rfl, rfl⟩

theorem renewWork_timer : s.TimerSame (renewWork p s).state := by
  refine .withLock fun l => ?_
  split <;> exact ⟨rfl, rfl, rfl⟩

theorem withdrawWork_timer : s.TimerSame (withdrawWork p s).state := by
  refine .withLock fun l => ?_
  split <;> exact ⟨rfl, rfl, rfl⟩

theorem setLockWork_timer : s.TimerSame (setLockWork p s).state := by
  refine .withLock fun l => ?_
  repeat' split
  all_goals exact ⟨rfl, rfl, rfl⟩

theorem breakWork_timer : s.TimerSame (breakWork p s).state := by
  refine .withLock fun l => ?_
  split <;> exact ⟨rfl, rfl, rfl⟩

theorem probeWork_timer : s.TimerSame (probeWork p s).state := by
  unfold probeWork
  split <;> exact ⟨rfl, rfl, rfl⟩

theorem getWindowWork_timer : s.TimerSame (getWindowWork p s).state := by
  unfold getWindowWork
  split <;> exact ⟨rfl, rfl, rfl⟩

theorem setWindowWork_timer : s.TimerSame (setWindowWork p s).state := by
  unfold setWindowWork
  split
  · exact .refl s
  · exact ⟨s.divider_setWindowRec .., s.count_setWindowRec .., s.resetAsserted_setWindowRec ..⟩

theorem setDefaultRightsWork_timer : s.TimerSame (setDefaultRightsWork p s).state := by
  unfold setDefaultRightsWork
  split <;> exact ⟨rfl, rfl, rfl⟩

theorem State.copyRequest_timer {j : CopyJob} : s.TimerSame (s.copyRequest p j).state := by
  unfold State.copyRequest
  repeat' split
  all_goals exact ⟨rfl, rfl, rfl⟩

theorem cancelCopyWork_timer : s.TimerSame (cancelCopyWork p s).state := by
  unfold cancelCopyWork
  repeat' split
  all_goals exact ⟨rfl, rfl, rfl⟩

theorem takeCompletionWork_timer : s.TimerSame (takeCompletionWork p s).state := by
  unfold takeCompletionWork
  split <;> exact ⟨rfl, rfl, rfl⟩

theorem resumeCopyWork_timer : s.TimerSame (resumeCopyWork p s).state := by
  unfold resumeCopyWork
  split <;> exact ⟨rfl, rfl, rfl⟩

theorem sendWork_timer : s.TimerSame (sendWork p s).state := by
  unfold sendWork
  repeat' split
  all_goals exact ⟨rfl, rfl, rfl⟩

theorem receiveWork_timer : s.TimerSame (receiveWork p s).state := by
  unfold receiveWork
  split <;> exact ⟨rfl, rfl, rfl⟩

theorem setQuotaWork_timer : s.TimerSame (setQuotaWork p s).state := by
  unfold setQuotaWork
  repeat' split
  all_goals exact ⟨rfl, rfl, rfl⟩

theorem takeFaultWork_timer : s.TimerSame (takeFaultWork p s).state := by
  unfold takeFaultWork
  split <;> exact ⟨rfl, rfl, rfl⟩

theorem evictWork_timer : s.TimerSame (evictWork p s).state := by
  unfold evictWork
  repeat' split
  all_goals exact ⟨rfl, rfl, rfl⟩

theorem State.attach_timer : s.TimerSame (s.attach p) := by
  unfold State.attach
  split <;> exact ⟨rfl, rfl, rfl⟩

theorem State.beginPoolStatus_timer : s.TimerSame (s.beginPoolStatus p) := by
  unfold State.beginPoolStatus
  split <;> exact ⟨rfl, rfl, rfl⟩

/-! ### The other cycles -/

theorem State.takeAdata_timer {k : AccessKind} : s.TimerSame (s.takeAdata p k) := by
  unfold State.takeAdata
  split <;> exact ⟨rfl, rfl, rfl⟩

theorem State.writeAmode_timer {w : Word} : s.TimerSame (s.writeAmode p w) := by
  unfold State.writeAmode
  split <;> exact ⟨rfl, rfl, rfl⟩

theorem State.writeEvenSet_timer {w : Word} : s.TimerSame (s.writeEvenSet p w) := by
  unfold State.writeEvenSet
  split <;> exact ⟨rfl, rfl, rfl⟩

theorem State.writePlain_timer {r : PlainWord} {w : Word} : s.TimerSame (s.writePlain p r w) := by
  cases r <;> exact ⟨rfl, rfl, rfl⟩

/-- No bus cycle but SET_TICK touches the lease timer. -/
theorem takeCycle_timerSame (hc : ∀ p, c ≠ .setTick p) : s.TimerSame (takeCycle c s) := by
  cases c with
  | attach p => exact State.attach_timer
  | detach p => exact .issue ⟨rfl, rfl, rfl⟩
  | evict p => exact .issue evictWork_timer
  | acquire p => exact .issue acquireWork_timer
  | release p => exact .issue releaseWork_timer
  | renew p => exact .issue renewWork_timer
  | withdraw p => exact .issue withdrawWork_timer
  | lockStatus p => exact .issue (.withLock fun _ => .refl s)
  | setLock p => exact .issue setLockWork_timer
  | breakLock p => exact .issue breakWork_timer
  | setTick p => exact absurd rfl (hc p)
  | probe p => exact .issue probeWork_timer
  | getWindow p => exact .issue getWindowWork_timer
  | setWindow p => exact .issue setWindowWork_timer
  | setDefaultRights p => exact .issue setDefaultRightsWork_timer
  | copy p => exact .issue State.copyRequest_timer
  | fill p => exact .issue State.copyRequest_timer
  | cancelCopy p => exact .issue cancelCopyWork_timer
  | takeCompletion p => exact .issue takeCompletionWork_timer
  | pauseCopy p => exact .issue ⟨rfl, rfl, rfl⟩
  | resumeCopy p => exact .issue resumeCopyWork_timer
  | send p => exact .issue sendWork_timer
  | receive p => exact .issue receiveWork_timer
  | msgStatus p => exact .issue (.refl s)
  | setQuota p => exact .issue setQuotaWork_timer
  | takeLockEvents p => exact .issue ⟨rfl, rfl, rfl⟩
  | takePeerEvents p => exact .issue ⟨rfl, rfl, rfl⟩
  | takeFault p => exact .issue takeFaultWork_timer
  | poolStatus p => exact State.beginPoolStatus_timer
  | badCommand p w => exact ⟨rfl, rfl, rfl⟩
  | adataRead p => exact State.takeAdata_timer
  | adataWrite p w => exact State.takeAdata_timer
  | amodeWrite p w => exact State.writeAmode_timer
  | evenSet p w => exact State.writeEvenSet_timer
  | evenClr p w => exact ⟨rfl, rfl, rfl⟩
  | registerWrite p r w => exact State.writePlain_timer
  | _ => exact .refl s

/-! ### The grants of the arbiter -/

theorem State.grantPort_timer : s.TimerSame (s.grantPort p) := by
  unfold State.grantPort State.serveAccess State.servePermitted
  repeat' split
  all_goals exact ⟨rfl, rfl, rfl⟩

theorem State.grantEngine_timer : s.TimerSame s.grantEngine := by
  unfold State.grantEngine State.serveWord
  repeat' split
  all_goals exact ⟨rfl, rfl, rfl⟩

/-! ### The law of the lease timer -/

/-- SET_TICK starts the count again from 0, so that it stays below the new tick period (R33). -/
theorem setTickWork_timerLaw (hs : s.TimerLaw) : (setTickWork p s).state.TimerLaw := by
  unfold setTickWork
  split
  · exact hs
  · exact State.timerLaw_of_count_zero rfl

theorem takeCycle_timerLaw (c : Instr) (s : State) (hs : s.TimerLaw) : (takeCycle c s).TimerLaw := by
  cases c with
  | setTick p => exact State.issue_keeps hs (fun _ _ _ _ ht => ht) fun _ => setTickWork_timerLaw hs
  | _ => exact (takeCycle_timerSame (by simp)).law hs

/-- The law of the lease timer reads nothing of the buses. -/
theorem State.timerLaw_busBlind : BusBlind State.TimerLaw := fun _ _ _ _ hu => hu

theorem State.clkPeriod_timerLaw (hs : s.TimerLaw) : s.clkPeriod.TimerLaw := by
  unfold State.clkPeriod
  split
  · exact hs
  · next hr =>
    split
    · exact State.timerLaw_of_count_zero rfl
    · next hbelow => exact ⟨Nat.lt_of_not_le hbelow, fun h => absurd h hr⟩

theorem State.Executed.timerLaw (h : s.Executed t) (hs : s.TimerLaw) : t.TimerLaw := by
  have hb := State.timerLaw_busBlind
  cases h with
  | nothing => exact hs
  | start p c _ _ => exact State.cycle_keeps hb takeCycle_timerLaw hs
  | grantPort p _ => exact takeHeld_keeps hb (fun c _ => takeCycle_timerLaw c) (State.grantPort_timer.law hs)
  | grantEngine => exact State.grantEngine_timer.law hs
  | tick => exact State.timerLaw_of_count_zero rfl
  | waitExpiry l p => exact hs
  | leaseExpiry l => exact hs
  | assertReset => exact State.timerLaw_of_count_zero rfl
  | negateReset csel =>
    unfold State.negateReset
    split
    · exact hs
    · exact ⟨hs.1, fun h => Bool.noConfusion h⟩
  | assertPortReset p =>
    unfold State.assertPortReset
    split <;> exact hs
  | negatePortReset p => exact hs
  | endEarly p _ => exact hs

theorem keptByStep_timerLaw : KeptByStep State.TimerLaw :=
  keptByStep_of_executed (fun _ _ hs => hs) (fun _ _ h => h.timerLaw)
    (fun _ _ _ => State.busStep_keeps State.timerLaw_busBlind takeCycle_timerLaw) fun _ => State.clkPeriod_timerLaw

end Sys2Proof.Machine
end

section
/-! PROOF. The law of the buses (R81, R145, R176): each port's bus is free or carries one stretched cycle, and every step keeps it so. -/

namespace Sys2Proof.Machine

variable {s t u : State} {r r' : PortState} {p q : Port} {l : LockNo} {c : Instr}

/-! ### The law of one bus -/

/-- The bus of a port carries nothing: no access waits, no command is stretched, no cycle is held, no early end is recorded. -/
structure PortState.BusFree (r : PortState) : Prop where
  request : r.request = none
  command : r.command = none
  held : r.held = []
  cycleEnded : r.cycleEnded = false

/-- The bus of port `p`, which is not DOWN, carries one stretched cycle, with well-formed cycles of the port held behind it (R176). -/
structure PortState.BusTaken (r : PortState) (p : Port) : Prop where
  up : r.mode ≠ .down
  single : r.request = none ∨ r.command = none
  stretched : r.stretched = true
  cycles : ∀ c ∈ r.held, c.wellFormed = true ∧ c.port? = some p

theorem PortState.stretched_eq_false_iff : r.stretched = false ↔ r.request = none ∧ r.command = none := by
  simp [PortState.stretched]

theorem PortState.busy_eq_false_iff : r.busy = false ↔ r.request = none ∧ r.command = none ∧ r.held = [] := by
  simp [PortState.busy, PortState.stretched, and_assoc]

/-- The law of port `p`'s bus: it is free, or it carries one stretched cycle. -/
def PortState.BusLawful (r : PortState) (p : Port) : Prop := r.BusFree ∨ r.BusTaken p

theorem PortState.BusFree.not_busy (h : r.BusFree) : r.busy = false :=
  PortState.busy_eq_false_iff.mpr ⟨h.request, h.command, h.held⟩

theorem PortState.BusTaken.busy (h : r.BusTaken p) : r.busy = true := by
  simp [PortState.busy, h.stretched]

/-- A lawful bus that has no unanswered cycle is free. -/
theorem PortState.BusLawful.free (h : r.BusLawful p) (hb : r.busy = false) : r.BusFree := by
  rcases h with h | h
  · exact h
  · exact absurd h.busy (by simp [hb])

/-- A lawful bus that has an unanswered cycle carries a stretched one. -/
theorem PortState.BusLawful.taken (h : r.BusLawful p) (hb : r.busy = true) : r.BusTaken p := by
  rcases h with h | h
  · exact absurd h.not_busy (by simp [hb])
  · exact h

/-- The law of the buses is the law of each port's bus. -/
theorem State.busLaw_iff : s.BusLaw ↔ ∀ p, (s.port p).BusLawful p := by
  refine forall_congr' fun p => ⟨fun ⟨hdown, hended, hsingle, hbehind, hcycles⟩ => ?_, fun h => ?_⟩
  · cases hb : (s.port p).busy with
    | false =>
      obtain ⟨hrequest, hcommand, hheld⟩ := PortState.busy_eq_false_iff.mp hb
      exact .inl ⟨hrequest, hcommand, hheld, hended hb⟩
    | true =>
      refine .inr ⟨fun hm => by simp [hdown hm] at hb, hsingle, ?_, hcycles⟩
      by_cases hheld : (s.port p).held = []
      · simpa [PortState.busy, hheld] using hb
      · exact hbehind hheld
  · rcases h with h | h
    · exact ⟨fun _ => h.not_busy, fun _ => h.cycleEnded, .inl h.request, fun hne => absurd h.held hne, by simp [h.held]⟩
    · exact ⟨fun hm => absurd hm h.up, fun hb => by simp [h.busy] at hb, h.single, fun _ => h.stretched, h.cycles⟩

/-- The bus of a port is as before, and the port has not come DOWN. -/
structure PortState.BusSame (r r' : PortState) : Prop where
  request : r'.request = r.request
  command : r'.command = r.command
  held : r'.held = r.held
  cycleEnded : r'.cycleEnded = r.cycleEnded
  down : r'.mode = .down → r.mode = .down

theorem PortState.BusSame.refl (r : PortState) : r.BusSame r := ⟨rfl, rfl, rfl, rfl, id⟩

theorem PortState.BusSame.lawful (h : r.BusSame r') (hr : r.BusLawful p) : r'.BusLawful p := by
  rcases hr with hr | hr
  · exact .inl ⟨h.request.trans hr.request, h.command.trans hr.command, h.held.trans hr.held,
      h.cycleEnded.trans hr.cycleEnded⟩
  · refine .inr ⟨fun hm => hr.up (h.down hm), ?_, ?_, ?_⟩
    · rw [h.request, h.command]; exact hr.single
    · rw [PortState.stretched, h.request, h.command]; exact hr.stretched
    · rw [h.held]; exact hr.cycles

/-- An event that leaves every bus alone keeps the law. -/
theorem State.BusLaw.of_same (hs : s.BusLaw) (h : ∀ q, (s.port q).BusSame (t.port q)) : t.BusLaw :=
  State.busLaw_iff.mpr fun q => (h q).lawful (State.busLaw_iff.mp hs q)

/-- A change of one port's record that leaves its bus lawful keeps the law. -/
theorem State.BusLaw.onPort {f : PortState → PortState} (hs : s.BusLaw) (h : (f (s.port p)).BusLawful p) :
    (s.onPort p f).BusLaw := by
  refine State.busLaw_iff.mpr fun q => ?_
  rw [State.port_onPort]
  split
  · next hq => subst hq; exact h
  · exact State.busLaw_iff.mp hs q

/-! ### The taking of one cycle -/

/-- An event that is no bus cycle does nothing where a cycle is taken. -/
theorem takeCycle_of_no_port (h : c.port? = none) : takeCycle c s = s := by
  cases c <;> first | rfl | cases h

/-- The taking of a cycle brings no port DOWN. -/
theorem takeCycle_down (h : ((takeCycle c s).port q).mode = .down) : (s.port q).mode = .down := by
  cases hp : c.port? with
  | none => rwa [takeCycle_of_no_port hp] at h
  | some p =>
    rcases takeCycle_cases (s := s) hp with hf | ⟨k, hk⟩
    · exact hf.down q h
    · rw [hk, State.takeAdata] at h
      split at h <;> (rw [State.port_onPort] at h; split at h <;> exact h)

/-- The taking of a cycle of port `p` leaves the other buses alone. -/
theorem takeCycle_others (hp : c.port? = some p) (hq : q ≠ p) : (s.port q).BusSame ((takeCycle c s).port q) := by
  rcases takeCycle_cases (s := s) hp with hf | ⟨k, hk⟩
  · exact ⟨hf.request q, hf.command q hq, hf.held q, hf.cycleEnded q, hf.down q⟩
  · rw [hk, State.takeAdata]
    split <;> (rw [State.port_onPort_of_ne s hq]; exact .refl _)

/-- The taking of a cycle of port `p` on a bus that carries no stretched cycle leaves it with at most one; the early end that is
recorded stays. -/
theorem takeCycle_self (hp : c.port? = some p) (hr : (s.port p).request = none) (hc : (s.port p).command = none) :
    (((takeCycle c s).port p).request = none ∨ ((takeCycle c s).port p).command = none)
      ∧ ((takeCycle c s).port p).cycleEnded = (s.port p).cycleEnded := by
  rcases takeCycle_cases (s := s) hp with hf | ⟨k, hk⟩
  · exact ⟨.inl ((hf.request p).trans hr), hf.cycleEnded p⟩
  · rw [hk, State.takeAdata]
    split <;> (rw [State.port_onPort_self]; exact ⟨.inr hc, rfl⟩)

/-- A cycle taken on the free bus of a port that is not DOWN keeps the law. -/
theorem takeCycle_busLaw (hs : s.BusLaw) (hm : (s.port p).mode ≠ .down) (hb : (s.port p).busy = false)
    (hp : c.port? = some p) : (takeCycle c s).BusLaw := by
  have hfree := (State.busLaw_iff.mp hs p).free hb
  obtain ⟨hsingle, hended⟩ := takeCycle_self hp hfree.request hfree.command
  have hheld : ((takeCycle c s).port p).held = [] := takeCycle_held.trans hfree.held
  refine State.busLaw_iff.mpr fun q => ?_
  by_cases hq : q = p
  · subst hq
    cases hst : ((takeCycle c s).port q).stretched with
    | true => exact .inr ⟨fun hd => hm (takeCycle_down hd), hsingle, hst, by simp [hheld]⟩
    | false =>
      obtain ⟨hrequest, hcommand⟩ := PortState.stretched_eq_false_iff.mp hst
      exact .inl ⟨hrequest, hcommand, hheld, hended.trans hfree.cycleEnded⟩
  · exact (takeCycle_others hp hq).lawful (State.busLaw_iff.mp hs q)

/-! ### The taking of held cycles -/

/-- The cycles held at a port that is not DOWN and whose front cycle has been answered are taken, and leave every bus lawful (R176). -/
theorem takeHeld_busLaw {held : List Instr} {ended : Bool} (hm : (s.port p).mode ≠ .down)
    (hr : (s.port p).request = none) (hc : (s.port p).command = none) (ho : ∀ q, q ≠ p → (s.port q).BusLawful q)
    (hh : ∀ c ∈ held, c.wellFormed = true ∧ c.port? = some p) : (takeHeld p ended held s).BusLaw := by
  induction held generalizing s with
  | nil =>
    refine State.busLaw_iff.mpr fun q => ?_
    rw [takeHeld, State.port_setHeld]
    split
    · next hq => subst hq; exact .inl ⟨hr, hc, rfl, rfl⟩
    · next hq => exact ho q hq
  | cons c rest ih =>
    obtain ⟨⟨_, hp⟩, hrest⟩ := List.forall_mem_cons.mp hh
    rw [takeHeld_cons]
    generalize hu : s.setHeld p [] (ended || !rest.isEmpty) = u
    have hself : u.port p = { s.port p with held := [], cycleEnded := ended || !rest.isEmpty } := by simp [← hu]
    have hother : ∀ q, q ≠ p → u.port q = s.port q := fun q hq => by simp [← hu, hq]
    have hm' : ((takeCycle c u).port p).mode ≠ .down := fun hd => hm (by simpa [hself] using takeCycle_down hd)
    obtain ⟨hsingle, _⟩ := takeCycle_self (s := u) hp (by rw [hself]; exact hr) (by rw [hself]; exact hc)
    have ho' : ∀ q, q ≠ p → ((takeCycle c u).port q).BusLawful q := fun q hq =>
      (takeCycle_others hp hq).lawful (by rw [hother q hq]; exact ho q hq)
    split
    · next hst =>
      refine State.busLaw_iff.mpr fun q => ?_
      rw [State.port_setHeld]
      split
      · next hq => subst hq; exact .inr ⟨hm', hsingle, hst, hrest⟩
      · next hq => exact ho' q hq
    · next hst =>
      obtain ⟨hrequest, hcommand⟩ := PortState.stretched_eq_false_iff.mp (by simpa using hst)
      exact ih hm' hrequest hcommand ho' hrest

/-! ### Answers -/

theorem State.endCommand_port_of_ne (h : q ≠ p) : (s.endCommand p).port q = s.port q := by
  unfold State.endCommand State.postPoolStatus
  split
  · rw [State.port_post, if_neg h]
  · rfl
  · rfl

@[simp] theorem State.endCommand_port_mode : ((s.endCommand p).port q).mode = (s.port q).mode := by
  unfold State.endCommand State.postPoolStatus
  split
  · exact State.post_port_mode ..
  · rfl
  · rfl

/-- An answerable bus of a lawful state carries a stretched CMD cycle, and no access. -/
theorem PortState.BusLawful.answerable (h : r.BusLawful p) (ha : r.answerable = true) : r.request = none ∧ r.BusTaken p := by
  simp only [PortState.answerable, Bool.and_eq_true, Option.isNone_iff_eq_none] at ha
  exact ⟨ha.1, h.taken ha.2⟩

/-- The answer of a stretched CMD cycle keeps the law. -/
theorem State.answerBus_busLaw (hs : s.BusLaw) (ha : (s.port p).answerable = true) : (s.answerBus p).BusLaw := by
  have hl := State.busLaw_iff.mp hs
  obtain ⟨hrequest, htaken⟩ := (hl p).answerable ha
  refine takeHeld_busLaw ?_ ?_ ?_ (fun q hq => ?_) htaken.cycles
  · simpa [State.answerCommand] using htaken.up
  · simpa [State.answerCommand] using hrequest
  · simp [State.answerCommand]
  · rw [State.answerCommand, State.port_onPort_of_ne _ hq, State.endCommand_port_of_ne hq]
    exact hl q

/-- The catching up of a bus keeps the law. -/
theorem State.caughtUp_busLaw (hs : s.BusLaw) (p : Port) : (s.caughtUp p).BusLaw := by
  unfold State.caughtUp
  generalize (s.port p).held.length + 1 = n
  induction n generalizing s with
  | zero => exact hs
  | succ n ih =>
    unfold State.answerBuses
    split
    · next ha => exact ih (State.answerBus_busLaw hs ha)
    · exact hs

/-- The catching up of a bus brings no port DOWN. -/
theorem State.caughtUp_up (h : (s.port q).mode ≠ .down) : ((s.caughtUp p).port q).mode ≠ .down := by
  refine State.caughtUp_keeps (P := fun u => (u.port q).mode ≠ .down) (fun u k f hf hu => ?_)
    (fun c u hu hd => hu (takeCycle_down hd)) h
  change ((u.onPort k f).port q).mode ≠ .down
  rw [State.port_onPort]
  split
  · rw [hf]; exact hu
  · exact hu

/-- The start of a well-formed cycle keeps the law (R176, R180). -/
theorem State.cycle_busLaw (hs : s.BusLaw) (hw : c.wellFormed = true) (hp : c.port? = some p) : (s.cycle p c).BusLaw := by
  rcases State.cycle_cases (s := s) (p := p) (c := c) with h | ⟨_, hb, _, h⟩ | ⟨hm, hb, h⟩ <;> rw [h]
  · exact hs
  · have htaken := (State.busLaw_iff.mp hs p).taken hb
    refine hs.onPort (.inr ⟨htaken.up, htaken.single, htaken.stretched, fun d hd => ?_⟩)
    rcases List.mem_append.mp hd with hd | hd
    · exact htaken.cycles d hd
    · rw [List.mem_singleton.mp hd]
      exact ⟨hw, hp⟩
  · exact takeCycle_busLaw (State.caughtUp_busLaw hs p) (State.caughtUp_up hm) hb hp

/-- What the lowest ready bus does on an empty queue keeps the law: its command comes one stage on, or its cycle is answered. -/
theorem State.busStep_busLaw (hs : s.BusLaw) (h : s.readyCycle = some p) : (s.busStep p).BusLaw := by
  have ha : (s.port p).answerable = true := by simpa using List.find?_some h
  obtain ⟨hrequest, htaken⟩ := (State.busLaw_iff.mp hs p).answerable ha
  unfold State.busStep
  split
  · exact hs.onPort (.inr ⟨htaken.up, .inl hrequest, by simp [PortState.stretched], htaken.cycles⟩)
  · exact hs.onPort (.inr ⟨htaken.up, .inl hrequest, by simp [PortState.stretched], htaken.cycles⟩)
  · exact State.answerBus_busLaw hs ha
  · exact State.answerBus_busLaw hs ha

/-! ### The grants of the arbiter -/

theorem State.serveAccess_port_of_ne {x : AccessRequest} (h : q ≠ p) : (s.serveAccess p x).port q = s.port q := by
  unfold State.serveAccess State.servePermitted
  repeat' split
  all_goals exact State.port_onPort_of_ne _ h _

/-- The change of a port's record that answers its waiting access. -/
theorem State.port_onPort_answered {f : PortState → PortState}
    (hf : ∀ r, (f r).request = none ∧ (f r).command = r.command ∧ (f r).mode = r.mode) :
    ((s.onPort p f).port p).request = none ∧ ((s.onPort p f).port p).command = (s.port p).command
      ∧ ((s.onPort p f).port p).mode = (s.port p).mode := by
  rw [State.port_onPort_self]
  exact hf _

/-- The service of an access takes its request, and touches neither the port's state nor its stretched command. -/
theorem State.serveAccess_port_self {x : AccessRequest} :
    ((s.serveAccess p x).port p).request = none ∧ ((s.serveAccess p x).port p).command = (s.port p).command
      ∧ ((s.serveAccess p x).port p).mode = (s.port p).mode := by
  unfold State.serveAccess State.servePermitted
  repeat' split
  all_goals exact State.port_onPort_answered fun _ => ⟨rfl, rfl, rfl⟩

/-- The grant of a waiting access, with the taking of the cycles held behind it, keeps the law (R90, R176). -/
theorem State.grantPort_busLaw (hs : s.BusLaw) (h : s.choice = some (.port p)) :
    (takeHeld p (s.port p).cycleEnded (s.port p).held (s.grantPort p)).BusLaw := by
  obtain ⟨x, hx⟩ := State.request_of_choice h
  have hl := State.busLaw_iff.mp hs
  have htaken := (hl p).taken (by simp [PortState.busy, PortState.stretched, hx])
  have hcommand : (s.port p).command = none := htaken.single.resolve_left (by simp [hx])
  have hgrant : s.grantPort p = ({ s with position := (Requester.port p).following } : State).serveAccess p x := by
    rw [State.grantPort, hx]
  rw [hgrant]
  obtain ⟨hr, hc, hm⟩ :=
    State.serveAccess_port_self (s := { s with position := (Requester.port p).following }) (p := p) (x := x)
  refine takeHeld_busLaw (fun hd => htaken.up (hm.symm.trans hd)) hr (hc.trans hcommand) (fun q hq => ?_) htaken.cycles
  rw [State.serveAccess_port_of_ne hq]
  exact hl q

/-- The end of a descriptor leaves every bus alone. -/
theorem State.endDescriptor_busSame {rest : List Descriptor} {d : Descriptor} {st : CopyStatus} :
    (s.port q).BusSame ((s.endDescriptor rest d st).port q) := by
  rw [State.endDescriptor, State.addCompletion, State.port_onPort]
  split <;> exact ⟨rfl, rfl, rfl, rfl, id⟩

/-- The move of a word leaves every bus alone. -/
theorem State.grantEngine_busSame : (s.port q).BusSame (s.grantEngine.port q) := by
  unfold State.grantEngine
  split
  · exact .refl _
  · unfold State.serveWord
    split
    · exact State.endDescriptor_busSame (s := { s with position := Requester.engine.following })
    · next m _ =>
      split
      · exact State.endDescriptor_busSame (s := { s with position := Requester.engine.following, mem := m })
      · exact .refl _

/-! ### The lease timer and the resets -/

/-- A lock-table event leaves every bus alone. -/
theorem State.lockEvent_busSame {f : LockNo → LockRec → LockChange} : (s.port q).BusSame ((s.lockEvent f).port q) :=
  ⟨State.lockEvent_port_request .., State.lockEvent_port_command .., State.lockEvent_port_held ..,
    State.lockEvent_port_cycleEnded .., fun h => (State.lockEvent_port_mode ..).symm.trans h⟩

theorem State.assertReset_busLaw : s.assertReset.BusLaw := by
  refine State.busLaw_iff.mpr fun q => ?_
  have h : s.assertReset.port q = { PortState.reset with prstAsserted := (s.port q).prstAsserted } := by
    simp [State.assertReset, State.port]
  rw [h]
  exact .inl ⟨rfl, rfl, rfl, rfl⟩

theorem State.negateReset_busLaw {csel : Port} (hs : s.BusLaw) : (s.negateReset csel).BusLaw := by
  unfold State.negateReset
  split
  · exact hs
  · refine hs.of_same fun q => ?_
    rw [State.port_mapPorts]
    split
    · exact .refl _
    · exact ⟨rfl, rfl, rfl, rfl, fun h => PortMode.noConfusion h⟩

/-- A session end of another port leaves a port's bus alone. -/
theorem State.endSession_busSame {m : PortMode} (h : q ≠ p) : (s.port q).BusSame ((s.endSession p m).port q) := by
  rw [State.endSession_port_other _ _ _ _ h]
  split <;> exact ⟨rfl, rfl, rfl, rfl, id⟩

/-- PRSTn abandons every cycle of its port (R145, R176). -/
theorem State.assertPortReset_busLaw (hs : s.BusLaw) : (s.assertPortReset p).BusLaw := by
  have hl := State.busLaw_iff.mp hs
  unfold State.assertPortReset
  split
  · exact hs.onPort (PortState.BusSame.lawful (r := s.port p) ⟨rfl, rfl, rfl, rfl, id⟩ (hl p))
  · exact hs.onPort (.inl ⟨rfl, rfl, rfl, rfl⟩)
  · refine State.busLaw_iff.mpr fun q => ?_
    rw [State.port_onPort]
    split
    · exact .inl ⟨rfl, rfl, rfl, rfl⟩
    · next hq => exact (State.endSession_busSame hq).lawful (hl q)

theorem State.negatePortReset_busLaw (hs : s.BusLaw) : (s.negatePortReset p).BusLaw := by
  refine hs.onPort (PortState.BusSame.lawful (r := s.port p) ⟨rfl, rfl, rfl, rfl, fun h => ?_⟩ (State.busLaw_iff.mp hs p))
  dsimp only at h
  split at h
  · cases h
  · exact h

/-! ### Every step -/

theorem State.Executed.busLaw (h : s.Executed t) (hs : s.BusLaw) : t.BusLaw := by
  cases h with
  | nothing => exact hs
  | start p c hw hp => exact State.cycle_busLaw hs hw hp
  | grantPort p hc => exact State.grantPort_busLaw hs hc
  | grantEngine => exact hs.of_same fun _ => State.grantEngine_busSame
  | tick => exact hs.of_same fun _ => State.lockEvent_busSame (s := { s with count := 0 })
  | waitExpiry l p => exact hs.of_same fun _ => State.lockEvent_busSame
  | leaseExpiry l => exact hs.of_same fun _ => State.lockEvent_busSame
  | assertReset => exact State.assertReset_busLaw
  | negateReset csel => exact State.negateReset_busLaw hs
  | assertPortReset p => exact State.assertPortReset_busLaw hs
  | negatePortReset p => exact State.negatePortReset_busLaw hs
  | endEarly p hb =>
    have htaken := (State.busLaw_iff.mp hs p).taken hb
    exact hs.onPort (.inr ⟨htaken.up, htaken.single, htaken.stretched, htaken.cycles⟩)

theorem State.clkPeriod_busLaw (hs : s.BusLaw) : s.clkPeriod.BusLaw := by
  unfold State.clkPeriod
  split
  · exact hs
  · split
    · exact State.Executed.tick.busLaw hs
    · exact hs

theorem keptByStep_busLaw : KeptByStep State.BusLaw :=
  keptByStep_of_executed (fun _ _ hs => hs) (fun _ _ h => h.busLaw) (fun _ _ h hs => State.busStep_busLaw hs h)
    fun _ => State.clkPeriod_busLaw

/-- Settles O14: the law of the lease timer and the law of the buses. -/
theorem stepKeepsTimerAndBusLaws : Obligations.StepKeepsTimerAndBusLaws := ⟨keptByStep_timerLaw, keptByStep_busLaw⟩

end Sys2Proof.Machine
end

section
/-! PROOF. What a step can do to shared memory, said once (R52, R62): nothing, or one write that a check made in that state permits; and
from it that memory keeps its canonical form. -/

namespace Sys2Proof.Machine

variable {s t : State} {p : Port} {c : Instr}

/-! ### The write a state permits -/

/-- The state permits a write of word `b`: a check of R61 for the waiting write of an ATTACHED port, or for the next word of the copy
engine's head descriptor, maps its view address to `b` (R62, R82, R106). -/
def State.MayWrite (s : State) (b : MemAddr) : Prop :=
  ∃ (p : Port) (v : Word), s.check p v .write = .permitted b
    ∧ ((∃ q w, (s.port p).request = some q ∧ q.view = v ∧ q.kind = .write w ∧ s.attached p = true)
        ∨ ∃ d rest, s.engine.queue = d :: rest ∧ d.requester = p ∧ v = d.dest + BitVec.ofNat 16 d.moved)

/-- The memory is as before, or one word of it that the state permits to write was written. -/
def State.MemStep (s t : State) : Prop := t.mem = s.mem ∨ ∃ b w, s.MayWrite b ∧ t.mem = s.mem.write b.toNat w

/-- A word that reads otherwise than before is one that the state permitted to write (R62). -/
theorem State.MemStep.mayWrite_of_read_ne {a : Nat} (h : s.MemStep t) (hs : s.MemLaw) (hne : t.mem.read a ≠ s.mem.read a) :
    ∃ b : MemAddr, b.toNat = a ∧ s.MayWrite b := by
  rcases h with hsame | ⟨b, w, hb, hwrite⟩
  · exact absurd (congrArg (Memory.read · a) hsame) hne
  · rw [hwrite, Memory.read_write hs] at hne
    have hab : a = b.toNat := by
      by_contra hab
      exact hne (if_neg hab)
    exact ⟨b, hab.symm, hb⟩

/-- A write of a memory address keeps the canonical form (R52). -/
theorem State.MemStep.memLaw (h : s.MemStep t) (hs : s.MemLaw) : t.MemLaw := by
  rcases h with hsame | ⟨b, w, _, hwrite⟩
  · rw [State.MemLaw, hsame]
    exact hs
  · rw [State.MemLaw, hwrite]
    exact Memory.wf_write b.isLt hs

/-! ### Bus cycles write nothing -/

/-- The taking of a cycle writes no memory: an access is served only when the arbiter grants it (R81). -/
theorem takeCycle_mem (c : Instr) (s : State) : (takeCycle c s).mem = s.mem := by
  cases hp : c.port? with
  | none => rw [takeCycle_of_no_port hp]
  | some p =>
    rcases takeCycle_cases (s := s) hp with hframe | ⟨k, hk⟩
    · exact hframe.mem
    · rw [hk, State.takeAdata]
      split <;> rfl

/-- Having a given memory is a law that the buses' own changes keep. -/
theorem memIs_busBlind (m : Memory) : BusBlind fun u => u.mem = m := fun _ _ _ _ hu => hu

/-- Having a given memory is a law that every cycle keeps. -/
theorem takeCycle_memIs (m : Memory) (c : Instr) (u : State) (hu : u.mem = m) : (takeCycle c u).mem = m :=
  (takeCycle_mem c u).trans hu

theorem takeHeld_mem {held : List Instr} {ended : Bool} : (takeHeld p ended held s).mem = s.mem :=
  takeHeld_keeps (memIs_busBlind s.mem) (fun c _ => takeCycle_memIs s.mem c) rfl

theorem State.cycle_mem : (s.cycle p c).mem = s.mem := State.cycle_keeps (memIs_busBlind s.mem) (takeCycle_memIs s.mem) rfl

theorem State.busStep_mem : (s.busStep p).mem = s.mem :=
  State.busStep_keeps (memIs_busBlind s.mem) (takeCycle_memIs s.mem) rfl

/-! ### The grants of the arbiter -/

/-- The service of an access writes memory only for a write of an ATTACHED port that the check permits (R82). -/
theorem State.serveAccess_mem {q : AccessRequest} : (s.serveAccess p q).mem = s.mem
    ∨ ∃ b w, s.attached p = true ∧ q.kind = .write w ∧ s.check p q.view .write = .permitted b
      ∧ (s.serveAccess p q).mem = s.mem.write b.toNat w := by
  unfold State.serveAccess
  split
  · exact .inl rfl
  · next hsession =>
    have hattached : s.attached p = true := by simpa using (not_or.mp hsession).1
    split
    · next b hcheck =>
      cases hk : q.kind with
      | read =>
        left
        rw [State.servePermitted, hk]
        rfl
      | write w =>
        refine .inr ⟨b, w, hattached, rfl, ?_, ?_⟩
        · rwa [hk] at hcheck
        · rw [State.servePermitted, hk]
          rfl
    · exact .inl rfl

/-- The grant of a port's request is a memory step: its only write is the port's waiting one (R82, R90). -/
theorem State.grantPort_memStep : s.MemStep (s.grantPort p) := by
  unfold State.grantPort
  cases hr : (s.port p).request with
  | none => exact .inl rfl
  | some q =>
    rcases State.serveAccess_mem (s := { s with position := (Requester.port p).following }) (p := p) (q := q) with
      hsame | ⟨b, w, hattached, hk, hcheck, hwrite⟩
    · exact .inl hsame
    · exact .inr ⟨b, w, ⟨p, q.view, hcheck, .inl ⟨q, w, hr, rfl, hk, hattached⟩⟩, hwrite⟩

/-- A write of a word to its destination is one that the check of the destination permits (R106). -/
theorem State.moveTo_moved {d : Descriptor} {w : Word} {m : Memory} (h : s.moveTo d w = .moved m) :
    ∃ b, s.check d.requester (wordAddr d.dest d.moved) .write = .permitted b ∧ m = s.mem.write b.toNat w := by
  unfold State.moveTo at h
  split at h
  · next b hcheck => cases h; exact ⟨b, hcheck, rfl⟩
  · cases h

/-- Whether its source is memory or the pattern, a moved word is one write that the check of the destination permits (R106). -/
theorem State.moveWord_moved {d : Descriptor} {m : Memory} (h : s.moveWord d = .moved m) :
    ∃ b w, s.check d.requester (wordAddr d.dest d.moved) .write = .permitted b ∧ m = s.mem.write b.toNat w := by
  unfold State.moveWord at h
  split at h
  · next pattern _ =>
    obtain ⟨b, hb⟩ := State.moveTo_moved h
    exact ⟨b, pattern, hb⟩
  · split at h
    · cases h
    · next a _ =>
      obtain ⟨b, hb⟩ := State.moveTo_moved h
      exact ⟨b, s.mem.read a.toNat, hb⟩

/-- The service of a word move leaves the memory as it was, or as the moved word leaves it (R106, R109). -/
theorem State.serveWord_mem {d : Descriptor} {rest : List Descriptor} :
    (s.serveWord d rest).mem = s.mem ∨ ∃ m, s.moveWord d = .moved m ∧ (s.serveWord d rest).mem = m := by
  unfold State.serveWord
  split
  · exact .inl rfl
  · next m hm =>
    refine .inr ⟨m, hm, ?_⟩
    split <;> rfl

/-- The grant of the engine's request is a memory step: its only write is the head descriptor's next word (R90, R106). -/
theorem State.grantEngine_memStep : s.MemStep s.grantEngine := by
  unfold State.grantEngine
  cases hq : s.engine.queue with
  | nil => exact .inl rfl
  | cons d rest =>
    rcases State.serveWord_mem (s := { s with position := Requester.engine.following }) (d := d) (rest := rest) with
      hsame | ⟨m, hm, hmem⟩
    · exact .inl hsame
    · obtain ⟨b, w, hcheck, hwrite⟩ := State.moveWord_moved hm
      exact .inr ⟨b, w, ⟨d.requester, _, hcheck, .inr ⟨d, rest, hq, rfl, rfl⟩⟩, hmem.trans hwrite⟩

/-! ### Every step -/

theorem State.clkPeriod_mem : s.clkPeriod.mem = s.mem := by
  unfold State.clkPeriod
  repeat' split
  all_goals rfl

/-- Of the commands and events only the grants of the arbiter write memory. -/
theorem State.Executed.memStep (h : s.Executed t) : s.MemStep t := by
  cases h with
  | start p c _ _ => exact .inl State.cycle_mem
  | grantPort p _ =>
    rw [State.MemStep, takeHeld_mem]
    exact State.grantPort_memStep
  | grantEngine => exact State.grantEngine_memStep
  | negateReset csel =>
    left
    unfold State.negateReset
    split <;> rfl
  | assertPortReset p =>
    left
    unfold State.assertPortReset
    split <;> rfl
  | _ => exact .inl rfl

/-- Every step is a memory step. -/
theorem step_memStep (h : step s = .next t) : s.MemStep t := by
  rcases step_cases h with ⟨c, rest, _, hx⟩ | ⟨p, _, _, rfl⟩ | ⟨_, _, rfl⟩
  · exact (exec_cases hx).memStep
  · exact .inl State.busStep_mem
  · exact .inl State.clkPeriod_mem

/-- Settles O15: every step is a memory step, and a memory step changes only a word that the state permits to write. -/
theorem memoryChangesOnlyByPermittedWrites : Obligations.MemoryChangesOnlyByPermittedWrites := by
  intro s t a hs hstep hne
  obtain ⟨b, hb, p, v, hcheck, hwriter⟩ := (step_memStep hstep).mayWrite_of_read_ne hs hne
  exact ⟨p, v, b, hb, hcheck, hwriter⟩

theorem keptByStep_memLaw : KeptByStep State.MemLaw := fun _ _ hs hstep => (step_memStep hstep).memLaw hs

end Sys2Proof.Machine
end

section
/-! PROOF. The law of the windows (R56, R67): only SET_WINDOW writes a record while RESETn is negated, and the record it writes is
lawful. -/

namespace Sys2Proof.Machine

variable {s t : State} {p : Port} {c : Instr}

/-! ### The record that SET_WINDOW writes -/

/-- The size code and the bases that SET_WINDOW accepts (R67). -/
theorem basesField_lawful {k view target v : Word} {n : Nat} {a : MemAddr} (h : basesField k view target = some (n, v, a)) :
    4 ≤ n ∧ n ≤ 15 ∧ v.toNat % 2 ^ n = 0 ∧ a.toNat % 2 ^ n = 0 := by
  unfold basesField rangeField at h
  split at h
  · cases h
  · next m hm =>
    obtain ⟨hsize, hk⟩ := Option.ite_none_right_eq_some.mp hm
    cases hk
    obtain ⟨⟨hview, hbelow, htarget⟩, he⟩ := Option.ite_none_right_eq_some.mp h
    cases he
    refine ⟨hsize.1, hsize.2, hview, ?_⟩
    rwa [BitVec.toNat_setWidth, Nat.mod_eq_of_lt hbelow]

/-- A record that SET_WINDOW accepts is lawful (R67). -/
theorem setWindowArgs_lawful {a0 a1 a2 a3 a4 a5 a6 : Word} {i : WindowNo} {w : Window}
    (h : setWindowArgs a0 a1 a2 a3 a4 a5 a6 = some (i, w)) : w.Lawful := by
  unfold setWindowArgs at h
  split at h
  · next hbases _ _ =>
    cases h
    exact basesField_lawful hbases
  · cases h

/-! ### Changes that leave the window table alone -/

theorem State.WindowsLawful.of_same (hs : s.WindowsLawful) (h : t.windows = s.windows) : t.WindowsLawful := by
  intro i
  rw [State.window, h]
  exact hs i

theorem State.withLock_windows {k : LockNo → Reply} (hk : ∀ l, (k l).state.windows = s.windows) :
    (s.withLock p k).state.windows = s.windows := by
  unfold State.withLock
  split
  · rfl
  · exact hk _

theorem State.issue_windows {work : State → Reply} (h : (work s).state.windows = s.windows) :
    (s.issue c p work).windows = s.windows :=
  State.issue_keeps (P := fun u => u.windows = s.windows) rfl (fun _ _ _ _ hu => hu) fun _ => h

/-- No bus cycle but SET_WINDOW touches the window table: a lock command ends in a lock-table event, another command in a change of
the records of its own block, and the other cycles in a change of one port's record. -/
theorem takeCycle_windows (hc : ∀ p, c ≠ .setWindow p) : (takeCycle c s).windows = s.windows := by
  cases c with
  | setWindow p => exact absurd rfl (hc p)
  | acquire p =>
    refine State.issue_windows (State.withLock_windows fun l => ?_)
    unfold State.decideAcquire
    repeat' split
    all_goals rfl
  | release p | renew p | withdraw p | lockStatus p | setLock p | breakLock p =>
    refine State.issue_windows (State.withLock_windows fun l => ?_)
    repeat' split
    all_goals rfl
  | detach p | evict p | setTick p | probe p | getWindow p | setDefaultRights p | copy p | fill p | cancelCopy p
  | takeCompletion p | pauseCopy p | resumeCopy p | send p | receive p | msgStatus p | setQuota p | takeLockEvents p
  | takePeerEvents p | takeFault p =>
    refine State.issue_windows ?_
    dsimp only [detachWork, evictWork, setTickWork, probeWork, getWindowWork, setDefaultRightsWork, copyWork, fillWork,
      State.copyRequest, cancelCopyWork, takeCompletionWork, pauseCopyWork, resumeCopyWork, sendWork, receiveWork,
      msgStatusWork, setQuotaWork, takeLockEventsWork, takePeerEventsWork, takeFaultWork]
    repeat' split
    all_goals rfl
  | attach p | poolStatus p | adataRead p | adataWrite p w | amodeWrite p w | evenSet p w | registerWrite p r w =>
    dsimp only [takeCycle, State.attach, State.beginPoolStatus, State.takeAdata, State.writeAmode, State.writeEvenSet,
      State.writePlain]
    repeat' split
    all_goals rfl
  | _ => rfl

/-- The grants of the arbiter leave the window table alone. -/
theorem State.grantPort_windows : (s.grantPort p).windows = s.windows := by
  unfold State.grantPort State.serveAccess State.servePermitted
  repeat' split
  all_goals rfl

theorem State.grantEngine_windows : s.grantEngine.windows = s.windows := by
  unfold State.grantEngine State.serveWord
  repeat' split
  all_goals rfl

/-! ### The law -/

/-- Replacing a record by a lawful one keeps the law. -/
theorem State.WindowsLawful.setWindowRec {i : WindowNo} {w : Window} (hs : s.WindowsLawful) (hw : w.Lawful) :
    (s.setWindowRec i w).WindowsLawful := by
  intro j
  rw [State.window_setWindowRec]
  split
  · exact hw
  · exact hs j

theorem setWindowWork_windowsLawful (hs : s.WindowsLawful) : (setWindowWork p s).state.WindowsLawful := by
  unfold setWindowWork
  split
  · exact hs
  · next hargs => exact hs.setWindowRec (setWindowArgs_lawful hargs)

theorem takeCycle_windowsLawful (hs : s.WindowsLawful) : (takeCycle c s).WindowsLawful := by
  cases c with
  | setWindow p => exact State.issue_keeps hs (fun _ _ _ _ ht => ht) fun _ => setWindowWork_windowsLawful hs
  | _ => exact hs.of_same (takeCycle_windows (by simp))

/-- RESETn leaves every record at its reset value, which is lawful (R75, Table 3-1). -/
theorem State.assertReset_windowsLawful : s.assertReset.WindowsLawful := by
  have hreset : ∀ i, State.reset.window i = Window.reset := by decide
  intro i
  show (State.reset.window i).Lawful
  rw [hreset]
  decide

theorem State.Event.windowsLawful (h : s.Event t) (hs : s.WindowsLawful) : t.WindowsLawful := by
  cases h with
  | cycle c => exact takeCycle_windowsLawful hs
  | grantPort p => exact hs.of_same State.grantPort_windows
  | grantEngine => exact hs.of_same State.grantEngine_windows
  | assertReset => exact State.assertReset_windowsLawful
  | negateReset csel =>
    unfold State.negateReset
    split <;> exact hs
  | assertPortReset p =>
    unfold State.assertPortReset
    split <;> exact hs
  | _ => exact hs

theorem keptByStep_windowsLawful : KeptByStep State.WindowsLawful := keptByStep_of_events fun _ _ h => h.windowsLawful

/-- Settles O10: the law of the windows, and the canonical form of the memory. -/
theorem stepKeepsWindowAndMemoryLaws : Obligations.StepKeepsWindowAndMemoryLaws :=
  ⟨keptByStep_windowsLawful, keptByStep_memLaw⟩

end Sys2Proof.Machine
end

section
/-! PROOF. The window unit's lookup and checks as the manual states them (R26, R58 to R62). -/

namespace Sys2Proof.Machine

variable {s : State} {p : Port} {v : Word} {i : WindowNo} {a : MemAddr} {d : Dir}

/-! ### The lookup -/

/-- A window that is not enabled, or whose range does not contain the address, does not cover it. -/
theorem Window.covers_eq_false_iff {w : Window} : w.covers v = false ↔
    ¬(w.enabled = true ∧ w.viewBase.toNat ≤ v.toNat ∧ v.toNat < w.viewBase.toNat + 2 ^ w.size) := by
  rw [← Window.covers_iff, Bool.not_eq_true]

theorem State.lookup_of_hit (h : s.hitWindow v = some i) : s.lookup v = .hit i ((s.window i).translate v) := by
  rw [State.lookup, h]

theorem State.lookup_of_below (h : s.hitWindow v = none) (hv : v.toNat < 0x8000) : s.lookup v = .default (v.setWidth 15) := by
  rw [State.lookup, h]
  exact if_pos hv

theorem State.lookup_of_above (h : s.hitWindow v = none) (hv : 0x8000 ≤ v.toNat) : s.lookup v = .unmapped := by
  rw [State.lookup, h]
  exact if_neg (Nat.not_lt.mpr hv)

/-- Settles O33: the lowest covering window is the hit window, and without one the view address decides. -/
theorem lookupTakesTheLowestWindow : Obligations.LookupTakesTheLowestWindow := by
  intro s v hs
  refine ⟨fun i henabled hlow hhigh hfirst => ?_, fun hnone => ?_⟩
  · have hcovers : (s.window i).covers v = true := Window.covers_iff.mpr ⟨henabled, hlow, hhigh⟩
    have hhit : s.hitWindow v = some i :=
      State.hitWindow_eq_some_iff.mpr ⟨hcovers, fun j hj => Window.covers_eq_false_iff.mpr (hfirst j hj)⟩
    exact ⟨_, State.lookup_of_hit hhit, (hs i).translate_toNat hcovers⟩
  · have hmiss : s.hitWindow v = none :=
      State.hitWindow_eq_none_iff.mpr fun j => Window.covers_eq_false_iff.mpr (hnone j)
    refine ⟨fun hv => ⟨_, State.lookup_of_below hmiss hv, ?_⟩, State.lookup_of_above hmiss⟩
    rw [BitVec.toNat_setWidth, Nat.mod_eq_of_lt hv]

/-! ### The checks -/

/-- The bit of a rights word for a port and a direction (Table 10-2). -/
theorem rightFor_eq (r : Rights) (p : Port) (d : Dir) :
    rightFor r p d = r.getLsbD (2 * p.val + if d = .write then 1 else 0) := by
  cases d <;> rfl

theorem State.check_unmapped (h : s.lookup v = .unmapped) : s.check p v d = .refused .unmapped := by
  rw [State.check, h]

theorem State.check_default (h : s.lookup v = .default a) :
    s.check p v d = if rightFor s.defaultRights p d then .permitted a else .refused .rights := by
  rw [State.check, h]

section
variable (h : s.lookup v = .hit i a)
include h

theorem State.check_hit_no_right (hr : rightFor (s.window i).rights p d = false) :
    s.check p v d = .refused .rights := by
  rw [State.check, h]
  exact if_pos hr

/-- With the right for the direction, the guard decides (R61 check 3). -/
theorem State.check_hit_guard (hr : rightFor (s.window i).rights p d = true) :
    s.check p v d = if s.guardAllows p (s.window i) d = true then .permitted a else .refused .guard := by
  rw [State.check, h]
  simp only [hr, Bool.true_eq_false, if_false]
  cases s.guardAllows p (s.window i) d <;> rfl

end

/-- A window without a guard lock asks for no hold. -/
theorem State.guardAllows_unguarded {w : Window} (hg : w.guard = none) : s.guardAllows p w d = true := by
  rw [State.guardAllows, hg]

/-- A write through a guarded window asks for an exclusive hold of the enabled guard lock (R26). -/
theorem State.guardAllows_write {w : Window} {l : LockNo} (hg : w.guard = some l) : s.guardAllows p w .write = true ↔
    (s.lock l).enabled = true ∧ (s.lock l).mode = .exclusive ∧ (s.lock l).heldBy p = true := by
  simp [State.guardAllows, hg, State.holdsExclusively, and_assoc]

/-- A read through a guarded window asks, with guard reads set, for any hold of the enabled guard lock (R26). -/
theorem State.guardAllows_read {w : Window} {l : LockNo} (hg : w.guard = some l) : s.guardAllows p w .read = true ↔
    w.guardReads = false ∨ ((s.lock l).enabled = true ∧ (s.lock l).heldBy p = true) := by
  simp [State.guardAllows, hg, State.holdsAtAll]

/-- Settles O34: the cases of the lookup, then the right, then the guard. -/
theorem checksInOrder : Obligations.ChecksInOrder := by
  intro s p v d
  refine ⟨State.check_unmapped, fun a h => ?_, fun i a h => ?_⟩
  · rw [State.check_default h, rightFor_eq]
  · rw [← rightFor_eq]
    refine ⟨State.check_hit_no_right h, fun hr => ?_⟩
    rw [State.check_hit_guard h hr]
    refine ⟨fun hg => if_pos (State.guardAllows_unguarded hg), fun l hg => ⟨?_, ?_⟩⟩
    · rintro rfl
      simp only [State.guardAllows_write hg]
    · rintro rfl
      simp only [State.guardAllows_read hg]

end Sys2Proof.Machine
end

section
/-! PROOF. The window commands: PROBE and GET_WINDOW report, and SET_WINDOW replaces a record whole (R67, R68, R71, R72). -/

namespace Sys2Proof.Machine

variable {s : State} {p q : Port} {v : Word} {i : WindowNo} {m : MemAddr} {d : Dir}

/-! ### The runs of the commands -/

section
variable {a : Reply} (h : s.CanCommand p)
include h

theorem exec_probe_of (hw : probeWork p s = a) : exec (.probe p) s = .next (a.state.post p 0x20 a.result a.words) :=
  exec_open h hw rfl rfl rfl rfl rfl

theorem exec_getWindow_of (hw : getWindowWork p s = a) :
    exec (.getWindow p) s = .next (a.state.post p 0x21 a.result a.words) := exec_open h hw rfl rfl rfl rfl rfl

theorem exec_setWindow_of (hk : s.isControl p = true) (hw : setWindowWork p s = a) :
    exec (.setWindow p) s = .next (a.state.post p 0x28 a.result a.words) := exec_control h hk hw rfl rfl rfl rfl

end

/-! ### PROBE -/

theorem probeWork_badArg (h : 3 < (s.arg p 1).toNat ∨ 1 < (s.arg p 2).toNat) :
    probeWork p s = { state := s, result := .badArg } := by
  have hargs : probeArgs (s.arg p 1) (s.arg p 2) = none := by
    unfold probeArgs
    rcases h with hport | hdir
    · rw [portField_none hport]
    · rw [dirField_none hdir]
      cases portField (s.arg p 1) <;> rfl
  rw [probeWork, hargs]

theorem probeWork_reports (hq : (s.arg p 1).toNat = q.val) (hd : s.arg p 2 = d.code.setWidth 16) :
    probeWork p s = { state := s, result := .ok, words := s.probeWords q (s.arg p 0) d } := by
  rw [probeWork, probeArgs, portField_of hq, dirField_of hd]

/-- The code of a check outcome is its place in Table 10-2. -/
theorem Check.code_eq (c : Check) : c.code = match c with
    | .permitted _ => 0
    | .refused .unmapped => 1
    | .refused .rights => 2
    | .refused .guard => 3 := by
  rcases c with _ | why
  · rfl
  · cases why <;> rfl

theorem State.probeWords_unmapped (h : s.lookup v = .unmapped) :
    s.probeWords q v d = [2, 0, 0, 0, (s.check q v d).code] := by
  rw [State.probeWords, State.guardAt, h]
  rfl

theorem State.probeWords_default (h : s.lookup v = .default m) :
    s.probeWords q v d = [1, 0, m.setWidth 16, 0, (s.check q v d).code] := by
  rw [State.probeWords, State.guardAt, h]
  rfl

/-- The number of a window or a lock as a present field (R185). -/
theorem presentWord_fin {n : Nat} (k : Fin n) (hn : n ≤ 32768) :
    presentWord (some k.val) = BitVec.ofNat 16 (0x8000 + k.val) := presentWord_some (Nat.lt_of_lt_of_le k.isLt hn)

theorem State.probeWords_hit (h : s.lookup v = .hit i m) :
    s.probeWords q v d = [0, BitVec.ofNat 16 (0x8000 + i.val), m.setWidth 16,
      (match (s.window i).guard with
        | none => 0
        | some l => BitVec.ofNat 16 (0x8000 + l.val)), (s.check q v d).code] := by
  rw [State.probeWords, State.guardAt, h]
  simp only [Lookup.window?, Option.map_some, presentWord_fin i (by decide)]
  cases hg : (s.window i).guard with
  | none => rfl
  | some l =>
    rw [Option.map_some, presentWord_fin l (by decide)]
    rfl

/-! ### GET_WINDOW -/

theorem getWindowWork_badArg (h : 16 ≤ (s.arg p 0).toNat) : getWindowWork p s = { state := s, result := .badArg } := by
  rw [getWindowWork, windowField_none h]

theorem getWindowWork_reports (h : (s.arg p 0).toNat = i.val) :
    getWindowWork p s = { state := s, result := .ok, words := (s.window i).words i } := by
  rw [getWindowWork, windowField_of h]

/-- The number in the guard field of RES6: the guard lock, 0 when absent (R185). -/
def Window.guardNumber (w : Window) : Nat :=
  match w.guard with
  | none => 0
  | some l => l.val

theorem Window.guardNumber_lt (w : Window) : w.guardNumber < 32 := by
  unfold Window.guardNumber
  split
  · decide
  · next l _ => exact l.isLt

/-- The fields of RES6 of GET_WINDOW (Table 10-9). -/
theorem Window.guardWord_fields (w : Window) : w.guardWord.extractLsb' 10 6 = 0 ∧ w.guardWord.getLsbD 9 = w.guardReads
    ∧ w.guardWord.getLsbD 8 = w.guard.isSome ∧ (w.guardWord.extractLsb' 0 8).toNat = w.guardNumber := by
  have hn : w.guardWord.toNat = w.guardReads.toNat * 512 + w.guard.isSome.toNat * 256 + w.guardNumber := w.guardWord_toNat
  have hlock := w.guardNumber_lt
  have hreads := Bool.toNat_le w.guardReads
  have hpresent := Bool.toNat_le w.guard.isSome
  refine ⟨?_, ?_, ?_, ?_⟩
  · apply extract_eq_zero
    rw [hn]
    omega
  · rw [getLsbD_eq, hn]
    cases w.guardReads <;> simp <;> omega
  · rw [getLsbD_eq, hn]
    cases w.guard.isSome <;> simp <;> omega
  · rw [toNat_extract, hn]
    omega

/-- Settles O35: each check of the two commands, and the words they report. -/
theorem probeAndGetWindowOnlyReport : Obligations.ProbeAndGetWindowOnlyReport := by
  intro s p h
  refine ⟨fun hbad => exec_probe_of h (probeWork_badArg hbad), fun q d hq hd => ?_,
    fun hbad => exec_getWindow_of h (getWindowWork_badArg hbad), fun i hi => ?_⟩
  · have hrun := exec_probe_of h (probeWork_reports hq hd)
    refine ⟨(s.check q (s.arg p 0) d).code, Check.code_eq _, fun hl => ?_, fun a hl => ?_, fun i a hl => ?_⟩
    · rw [hrun, State.probeWords_unmapped hl]
    · rw [hrun, State.probeWords_default hl]
    · rw [State.probeWords_hit hl] at hrun
      exact hrun
  · exact ⟨(s.window i).guardWord, exec_getWindow_of h (getWindowWork_reports hi), (s.window i).guardWord_fields⟩

/-! ### SET_WINDOW -/

/-- The bits of the guard word above bit 9 are zero exactly when it is below 1024. -/
theorem guardHighBits_eq_zero_iff {w : Word} : w.extractLsb' 10 6 = 0 ↔ w.toNat < 1024 := by
  rw [← BitVec.toNat_inj, toNat_extract]
  simp
  omega

/-- The low byte of the guard word, as a word. -/
theorem toNat_lowByte (w : Word) : ((w.setWidth 8).setWidth 16).toNat = w.toNat % 256 := by
  rw [BitVec.toNat_setWidth, BitVec.toNat_setWidth]
  omega

/-- The guard word is refused: a must-be-zero bit, or a present guard lock of 32 or more (R67). -/
theorem guardField_none {w : Word} (h : 1024 ≤ w.toNat ∨ (w.getLsbD 8 = true ∧ 32 ≤ w.toNat % 256)) :
    guardField w = none := by
  unfold guardField
  by_cases hz : w.extractLsb' 10 6 = 0
  · obtain ⟨hpresent, hlock⟩ := h.resolve_left (Nat.not_le.mpr (guardHighBits_eq_zero_iff.mp hz))
    rw [if_neg (not_not.mpr hz), if_pos hpresent, lockField_none (by rwa [toNat_lowByte])]
  · exact if_pos hz

/-- The guard word is accepted: the guard lock is checked and stored only when present (R67). -/
theorem guardField_of {w : Word} (hz : w.toNat < 1024) (hl : w.getLsbD 8 = true → w.toNat % 256 < 32) :
    ∃ g, guardField w = some (g, w.getLsbD 9)
      ∧ g.map Fin.val = if w.getLsbD 8 then some (w.toNat % 256) else none := by
  unfold guardField
  rw [if_neg (not_not.mpr (guardHighBits_eq_zero_iff.mpr hz))]
  cases hpresent : w.getLsbD 8 with
  | false => exact ⟨none, rfl, rfl⟩
  | true =>
    have hlock := hl hpresent
    rw [lockField_of (l := ⟨w.toNat % 256, hlock⟩) (toNat_lowByte w)]
    exact ⟨_, rfl, rfl⟩

section
variable {k view target : Word}

/-- The bases are refused (R67). -/
theorem basesField_none (h : k.toNat < 4 ∨ 15 < k.toNat ∨ view.toNat % 2 ^ k.toNat ≠ 0 ∨ 0x8000 ≤ target.toNat
    ∨ target.toNat % 2 ^ k.toNat ≠ 0) : basesField k view target = none := by
  unfold basesField
  by_cases hsize : k.toNat < 4 ∨ 15 < k.toNat
  · rw [rangeField_none hsize]
  · rw [rangeField_of (by omega) (by omega)]
    exact if_neg (by omega)

/-- The bases are accepted (R67). -/
theorem basesField_of (hlow : 4 ≤ k.toNat) (hhigh : k.toNat ≤ 15) (hview : view.toNat % 2 ^ k.toNat = 0)
    (hbelow : target.toNat < 0x8000) (htarget : target.toNat % 2 ^ k.toNat = 0) :
    basesField k view target = some (k.toNat, view, target.setWidth 15) := by
  rw [basesField, rangeField_of hlow hhigh]
  exact if_pos ⟨hview, hbelow, htarget⟩

end

/-- SET_WINDOW's arguments are refused as soon as one field is (R67). -/
theorem setWindowArgs_none {a0 a1 a2 a3 a4 a5 a6 : Word} (h : windowField a0 = none ∨ flagField a1 = none
    ∨ basesField a2 a3 a4 = none ∨ rightsField a5 = none ∨ guardField a6 = none) :
    setWindowArgs a0 a1 a2 a3 a4 a5 a6 = none := by
  unfold setWindowArgs
  split
  · next hi he hb hr hg => simp [hi, he, hb, hr, hg] at h
  · rfl

theorem setWindowWork_badArg (h : setWindowArgs (s.arg p 0) (s.arg p 1) (s.arg p 2) (s.arg p 3) (s.arg p 4) (s.arg p 5)
    (s.arg p 6) = none) : setWindowWork p s = { state := s, result := .badArg } := by
  rw [setWindowWork, h]

theorem setWindowWork_replaces {w : Window} (h : setWindowArgs (s.arg p 0) (s.arg p 1) (s.arg p 2) (s.arg p 3) (s.arg p 4)
    (s.arg p 5) (s.arg p 6) = some (i, w)) : setWindowWork p s = { state := s.setWindowRec i w, result := .ok } := by
  rw [setWindowWork, h]

/-- Settles O36: each field's check refuses, and with all fields accepted the record is replaced by the one they spell. -/
theorem setWindowReplacesTheRecord : Obligations.SetWindowReplacesTheRecord := by
  intro s p h hk
  refine ⟨fun hbad => ?_, fun i e k hi he hsize hlow hhigh hview hbelow htarget hrights hguard hlock => ?_⟩
  · refine exec_setWindow_of h hk (setWindowWork_badArg (setWindowArgs_none ?_))
    rcases hbad with hi | he | hlow | hhigh | hview | hbelow | htarget | hr | hg | hg
    · exact .inl (windowField_none hi)
    · exact .inr (.inl (flagField_none he))
    · exact .inr (.inr (.inl (basesField_none (.inl hlow))))
    · exact .inr (.inr (.inl (basesField_none (.inr (.inl hhigh)))))
    · exact .inr (.inr (.inl (basesField_none (.inr (.inr (.inl hview))))))
    · exact .inr (.inr (.inl (basesField_none (.inr (.inr (.inr (.inl hbelow)))))))
    · exact .inr (.inr (.inl (basesField_none (.inr (.inr (.inr (.inr htarget)))))))
    · exact .inr (.inr (.inr (.inl (rightsField_none hr))))
    · exact .inr (.inr (.inr (.inr (guardField_none (.inl hg)))))
    · exact .inr (.inr (.inr (.inr (guardField_none (.inr hg)))))
  · subst hsize
    obtain ⟨g, hg, hgmap⟩ := guardField_of hguard hlock
    have hargs : setWindowArgs (s.arg p 0) (s.arg p 1) (s.arg p 2) (s.arg p 3) (s.arg p 4) (s.arg p 5) (s.arg p 6)
        = some (i, { enabled := e, size := (s.arg p 2).toNat, viewBase := s.arg p 3, targetBase := (s.arg p 4).setWidth 15,
                     rights := (s.arg p 5).setWidth 8, guard := g, guardReads := (s.arg p 6).getLsbD 9 }) := by
      rw [setWindowArgs, windowField_of hi, flagField_of he, basesField_of hlow hhigh hview hbelow htarget,
        rightsField_of hrights, hg]
    refine ⟨_, exec_setWindow_of h hk (setWindowWork_replaces hargs), rfl, rfl, rfl, ?_, ?_, rfl, hgmap⟩
    · rw [BitVec.toNat_setWidth, Nat.mod_eq_of_lt hbelow]
    · rw [BitVec.toNat_setWidth, Nat.mod_eq_of_lt hrights]

end Sys2Proof.Machine
end

section
/-! PROOF. The arbiter: what a grant does to the position, and that the rotation brings every other waiting requester nearer (R90,
R91). -/

namespace Sys2Proof.Machine

variable {s : State} {p : Port} {g r : Requester}

/-! ### The rotation -/

theorem Requester.place_injective : Function.Injective Requester.place := Function.LeftInverse.injective Requester.at_place

/-- With the position moved past a granted requester, one that was not before it in the rotation is strictly nearer (R91). -/
theorem Requester.nearer_after_grant {o : Fin 5} (hfirst : g.place - o ≤ r.place - o) (hne : r ≠ g) :
    (r.place - (g.place + 1)).val < (r.place - o).val := by
  have hplace : r.place ≠ g.place := Requester.place_injective.ne hne
  omega

/-! ### The position -/

/-- The taking of a cycle leaves the position: only a grant moves it (R89). -/
theorem takeCycle_position (c : Instr) (s : State) : (takeCycle c s).position = s.position := by
  cases hp : c.port? with
  | none => rw [takeCycle_of_no_port hp]
  | some p =>
    rcases takeCycle_cases (s := s) hp with hframe | ⟨k, hk⟩
    · exact hframe.position
    · rw [hk, State.takeAdata]
      split <;> rfl

theorem takeHeld_position {held : List Instr} {ended : Bool} : (takeHeld p ended held s).position = s.position :=
  takeHeld_keeps (P := fun u => u.position = s.position) (fun _ _ _ _ hu => hu)
    (fun c _ u hu => (takeCycle_position c u).trans hu) rfl

/-- The state in which a granted access is served: the grant has moved the position past the port (R82, R90). -/
abbrev State.movedPast (s : State) (p : Port) : State := { s with position := (Requester.port p).following }

/-- The grant of a waiting request is its service, with the position moved past the port (R82, R90). -/
theorem State.grantPort_of_request {q : AccessRequest} (h : (s.port p).request = some q) :
    s.grantPort p = (s.movedPast p).serveAccess p q := by
  rw [State.grantPort, h]

theorem State.grantEngine_position : s.grantEngine.position = Requester.engine.following := by
  unfold State.grantEngine
  split
  · rfl
  · exact State.serveWord_position

/-! ### The grant of the choice -/

/-- The grant of a port's request takes the cycles held behind the access in the same event (R82, R176). -/
theorem exec_apertureAccess_of_choice (h : s.choice = some (.port p)) :
    exec .apertureAccess s = .next (takeHeld p (s.port p).cycleEnded (s.port p).held (s.grantPort p)) := by
  show execApertureAccess s = _
  rw [execApertureAccess, h]

theorem exec_copyWordMove_of_choice (h : s.choice = some .engine) : exec .copyWordMove s = .next s.grantEngine := by
  show execCopyWordMove s = _
  rw [execCopyWordMove, h]

/-- The grant of the arbiter's choice, a port or the engine, moves the position to the requester that follows it (R90). -/
theorem exec_grant_position (h : s.choice = some g) :
    ∃ t, exec (if g = .engine then .copyWordMove else .apertureAccess) s = .next t ∧ t.position = g.following := by
  cases g with
  | engine => exact ⟨_, exec_copyWordMove_of_choice h, State.grantEngine_position⟩
  | port p =>
    obtain ⟨q, hq⟩ := State.request_of_choice h
    refine ⟨_, exec_apertureAccess_of_choice h, ?_⟩
    rw [takeHeld_position, State.grantPort_of_request hq, State.serveAccess_position]

/-- Settles O38: the choice is the first in the rotation, and its grant moves the position past it. -/
theorem arbiterGrantsInRotation : Obligations.ArbiterGrantsInRotation := by
  intro s
  refine ⟨State.choice_eq_none_iff, fun g hg => ?_⟩
  obtain ⟨hwaits, hfirst⟩ := State.choice_first hg
  obtain ⟨t, hrun, hposition⟩ := exec_grant_position hg
  have hplace : t.position.place = g.place + 1 := by rw [hposition, Requester.place_following]
  refine ⟨hwaits, hfirst, t, hrun, hplace, fun r hr hne => ⟨?_, Fin.is_le _⟩⟩
  rw [hplace]
  exact Requester.nearer_after_grant (hfirst r hr) hne

end Sys2Proof.Machine
end

section
/-! PROOF. The service of an aperture access when the arbiter grants it: permitted, refused, or after the end of its session (R82 to
R87, R93), and the advance of AADDR (R83, R84). -/

namespace Sys2Proof.Machine

variable {s : State} {p : Port} {q : AccessRequest} {a : MemAddr} {why : Refused} {v : Word}

/-! ### What a service leaves alone -/

/-- The service of an access changes the memory and its port's record only (R82). -/
theorem State.serveAccess_eq_onPort :
    ∃ m f, s.serveAccess p q = ({ s with mem := m } : State).onPort p f
      ∧ ∀ r, (f r).held = r.held ∧ (f r).cycleEnded = r.cycleEnded := by
  unfold State.serveAccess State.servePermitted
  repeat' split
  all_goals exact ⟨_, _, rfl, fun _ => ⟨rfl, rfl⟩⟩

/-- What the service of an access leaves as it is, beside the other ports' records and the position. -/
theorem State.serveAccess_frame :
    (s.serveAccess p q).engine = s.engine ∧ (∀ l, (s.serveAccess p q).lock l = s.lock l)
      ∧ (∀ i, (s.serveAccess p q).window i = s.window i) ∧ (s.serveAccess p q).defaultRights = s.defaultRights
      ∧ (s.serveAccess p q).pending = s.pending ∧ (s.serveAccess p q).divider = s.divider
      ∧ (s.serveAccess p q).count = s.count ∧ (s.serveAccess p q).control = s.control
      ∧ (s.serveAccess p q).resetAsserted = s.resetAsserted := by
  obtain ⟨m, f, hserve, _⟩ := State.serveAccess_eq_onPort (s := s) (p := p) (q := q)
  rw [hserve]
  exact ⟨rfl, fun _ => rfl, fun _ => rfl, rfl, rfl, rfl, rfl, rfl, rfl⟩

/-- The grant of an access with no cycle behind it, which its agent has not ended early, is its service (R82, R90). -/
theorem exec_apertureAccess_alone (hc : s.choice = some (.port p)) (hq : (s.port p).request = some q)
    (hheld : (s.port p).held = []) (hended : (s.port p).cycleEnded = false) :
    exec .apertureAccess s = .next ((s.movedPast p).serveAccess p q) := by
  rw [exec_apertureAccess_of_choice hc, State.grantPort_of_request hq, hheld, hended]
  obtain ⟨m, f, hserve, hbus⟩ := State.serveAccess_eq_onPort (s := s.movedPast p) (p := p) (q := q)
  rw [hserve, takeHeld, State.setHeld, State.onPort_onPort]
  obtain ⟨hf, he⟩ := hbus (s.port p)
  refine congrArg Host.Outcome.next (State.onPort_congr _ p ?_)
  show { f (s.port p) with held := [], cycleEnded := false } = f (s.port p)
  rw [← hheld, ← hended, ← hf, ← he]

/-! ### The answer -/

/-- An access is not ended early while its agent keeps the cycle up and no other cycle is held behind it (R176). -/
theorem PortState.accessEndedEarly_eq_false {r : PortState} (hheld : r.held = []) (hended : r.cycleEnded = false) :
    r.accessEndedEarly = false := by
  simp [PortState.accessEndedEarly, hheld, hended]

theorem PortState.answerFor_read {r : PortState} {w : Word} (h : r.accessEndedEarly = false) :
    r.answerFor .read w = .data w := by
  simp [PortState.answerFor, h]

/-! ### The three services -/

theorem State.serveAccess_ended (h : s.attached p = false ∨ (s.port p).session ≠ q.session) :
    s.serveAccess p q = s.serveNotAttached p q := by
  rw [State.serveAccess]
  exact if_pos h

section
variable (ha : s.attached p = true) (hsession : (s.port p).session = q.session)
include ha hsession

theorem State.serveAccess_permitted (hcheck : s.check p q.view q.kind.dir = .permitted a) :
    s.serveAccess p q = s.servePermitted p q a := by
  rw [State.serveAccess, if_neg (by simp [ha, hsession]), hcheck]

theorem State.serveAccess_refused (hcheck : s.check p q.view q.kind.dir = .refused why) :
    s.serveAccess p q = s.serveRefused p q why := by
  rw [State.serveAccess, if_neg (by simp [ha, hsession]), hcheck]

end

/-- Settles O41: an access of an ended session is granted as any other, and its service is the not-attached answer. -/
theorem endedSessionsAccessesAreNotServed : Obligations.EndedSessionsAccessesAreNotServed := by
  intro s p q hc hq hgone hheld hended
  have hearly := PortState.accessEndedEarly_eq_false hheld hended
  rw [exec_apertureAccess_alone hc hq hheld hended, State.serveAccess_ended (s := s.movedPast p) hgone]
  refine congrArg Host.Outcome.next (State.onPort_congr _ p ?_)
  show (s.port p).answered q.kind Config.refusedRead = _
  cases hk : q.kind with
  | read => rw [PortState.answered, PortState.answerFor_read hearly]; rfl
  | write w => rfl

/-- The words after a permitted access: a read changes none, a write exactly the one at the memory address (R82). -/
theorem State.servePermitted_read (hs : s.MemLaw) (b : Nat) : (s.servePermitted p q a).mem.read b =
    match q.kind with
    | .read => s.mem.read b
    | .write w => if b = a.toNat then w else s.mem.read b := by
  rw [State.servePermitted]
  cases q.kind with
  | read => rfl
  | write w => exact Memory.read_write hs

/-- The port's record after a permitted access: the answer, and AADDR advanced by AMODE (R82, R83). -/
theorem State.servePermitted_port (hearly : (s.port p).accessEndedEarly = false) : (s.servePermitted p q a).port p =
    { s.port p with
      request := none, aaddr := s.advance (s.port p).amode q.view
      answer := (match q.kind with
        | .read => .data (s.mem.read a.toNat)
        | .write _ => .done) } := by
  rw [State.servePermitted]
  cases q.kind with
  | read => rw [State.port_onPort_self, PortState.answered, PortState.answerFor_read hearly]
  | write w => rw [State.port_onPort_self]; rfl

/-- A fault record holds a guard lock for the fault GUARD only (Table 4-3). -/
theorem State.faultOf_eq {d : Dir} : s.faultOf why d v =
    { kind := why, dir := d, view := v, mem := (s.lookup v).mem?, window := (s.lookup v).window?
      guard := if why = .guard then s.guardAt v else none, more := false } := by
  cases why <;> rfl

/-- The port's record after a refused access: the answer and the offered fault, and AADDR as it was (R85, R87). -/
theorem State.serveRefused_port (hearly : (s.port p).accessEndedEarly = false) : (s.serveRefused p q why).port p =
    { s.port p with
      request := none
      answer := (match q.kind with
        | .read => .data 0xFFFF
        | .write _ => .done)
      fault := offerFault (s.port p).fault (s.faultOf why q.kind.dir q.view) } := by
  rw [State.serveRefused, State.port_onPort_self, PortState.answered]
  cases q.kind with
  | read => rw [PortState.answerFor_read hearly]; rfl
  | write w => rfl

/-- Settles O39: the frame of a service, then the permitted and the refused one. -/
theorem apertureAccessesAreServed : Obligations.ApertureAccessesAreServed := by
  intro s p q hmem hc hq ha hsession hheld hended
  have hearly := PortState.accessEndedEarly_eq_false hheld hended
  obtain ⟨hengine, hlock, hwindow, hrights, hpending, hdivider, hcount, hcontrol, hreset⟩ :=
    State.serveAccess_frame (s := s.movedPast p) (p := p) (q := q)
  refine ⟨_, exec_apertureAccess_alone hc hq hheld hended, fun _ hne => State.serveAccess_port_of_ne hne,
    State.serveAccess_position, hengine, hlock, hwindow, hrights, hpending, hdivider, hcount, hcontrol, hreset,
    fun a hcheck => ?_, fun why hcheck => ?_⟩
  · rw [State.serveAccess_permitted (s := s.movedPast p) ha hsession hcheck]
    exact ⟨State.servePermitted_read hmem, State.servePermitted_port hearly⟩
  · rw [State.serveAccess_refused (s := s.movedPast p) ha hsession hcheck]
    refine ⟨rfl, (State.serveRefused_port hearly).trans ?_⟩
    rw [State.faultOf_eq]
    cases (s.port p).fault <;> rfl

/-! ### The advance -/

/-- Below FFFFH the next address is the next number. -/
theorem toNat_add_one (h : v.toNat < 0xFFFF) : (v + 1).toNat = v.toNat + 1 := by
  bv_omega

/-- WRAP among the default addresses: from 7FFFH to 0000H (R83). -/
theorem State.wrapNext_default (h : s.lookup v = .default a) : (s.wrapNext v).toNat = (v.toNat + 1) % 0x8000 := by
  obtain ⟨_, hbelow, _⟩ := State.lookup_default h
  rw [State.wrapNext, h]
  show (if v = 0x7FFF then 0 else v + 1 : Word).toNat = _
  split
  · next hv => rw [hv]; rfl
  · next hv =>
    have hne : v.toNat ≠ 0x7FFF := fun he => hv (BitVec.eq_of_toNat_eq he)
    rw [toNat_add_one (by omega), Nat.mod_eq_of_lt (by omega)]

/-- WRAP in a hit window: from its last address to its first (R83, R84). -/
theorem State.wrapNext_hit {i : WindowNo} (hs : s.WindowsLawful) (h : s.lookup v = .hit i a) : (s.wrapNext v).toNat =
    (s.window i).viewBase.toNat + (v.toNat - (s.window i).viewBase.toNat + 1) % 2 ^ (s.window i).size := by
  obtain ⟨_, hlow, hhigh⟩ := Window.covers_iff.mp (State.hitWindow_eq_some_iff.mp (State.lookup_hit h).1).1
  have hlast := (hs i).last_toNat
  have hrange := (hs i).ranges.1
  rw [State.wrapNext, h]
  show (if v = (s.window i).last then (s.window i).viewBase else v + 1 : Word).toNat = _
  split
  · next hv =>
    have hfull : v.toNat - (s.window i).viewBase.toNat + 1 = 2 ^ (s.window i).size := by
      rw [hv, hlast]
      omega
    rw [hfull, Nat.mod_self, Nat.add_zero]
  · next hv =>
    have hne : v.toNat ≠ (s.window i).last.toNat := fun he => hv (BitVec.eq_of_toNat_eq he)
    rw [toNat_add_one (by omega), Nat.mod_eq_of_lt (by omega)]
    omega

/-- Settles O40: each mode, and WRAP by what the lookup of the address gives. -/
theorem addressAdvances : Obligations.AddressAdvances := by
  intro s v hs
  exact ⟨rfl, BitVec.toNat_add _ _, fun _ => State.wrapNext_default, fun _ _ => State.wrapNext_hit hs⟩

end Sys2Proof.Machine
end

section
/-! PROOF. The cycles of the register window that a ready port takes at once: register writes (R79, R80, R163, R175, R178), ADATA
(R81, R92) and TAKE_FAULT (R88). -/

namespace Sys2Proof.Machine

variable {s : State} {p : Port} {c : Instr} {w : Word}

/-- A cycle of a ready port is taken in its own event (R171, R178). -/
theorem exec_ready (h : s.Ready p) (hp : c.port? = some p) (hw : c.wellFormed = true) :
    exec c s = .next (takeCycle c s) := by
  rw [exec_cycle hp hw, State.cycle_ready h]

/-! ### Register writes -/

/-- A write of ARG sets one of the eight argument words (R175). -/
theorem State.writePlain_arg (i : Fin 8) : s.writePlain p (.arg i) w = s.onPort p fun r => { r with args := r.args.set i w } := by
  rw [State.writePlain]
  refine State.onPort_congr _ p ?_
  have hargs : (Vector.ofFn fun j => if j = i then w else (s.port p).args[j]) = (s.port p).args.set i w := by
    ext j hj
    simp [Vector.getElem_set, Fin.ext_iff, eq_comm]
  exact congrArg (fun args => { s.port p with args := args }) hargs

theorem State.writeAmode_code {m : AdvanceMode} (h : w = m.code.setWidth 16) :
    s.writeAmode p w = s.onPort p fun r => { r with amode := m } := by
  rw [State.writeAmode, amodeField_of h]

theorem State.writeAmode_ignored (h : 2 < w.toNat) : s.writeAmode p w = s := by
  rw [State.writeAmode, amodeField_none h]

/-- Settles O43: each write is taken at once, and does what its word's rule says. -/
theorem registerWrites : Obligations.RegisterWrites := by
  intro s p w h
  have hplain (r : PlainWord) : exec (.registerWrite p r w) s = .next (s.writePlain p r w) := exec_ready h rfl rfl
  have hamode : exec (.amodeWrite p w) s = .next (s.writeAmode p w) := exec_ready h rfl rfl
  have hset : exec (.evenSet p w) s = .next (s.writeEvenSet p w) := exec_ready h rfl rfl
  refine ⟨fun m hm => ?_, fun hw => ?_, fun ha => ?_, fun ha => ?_, exec_ready h rfl rfl, fun i => ?_, hplain .aaddr,
    fun i => hplain (.res i), hplain .evsum, hplain .even, hplain .pstat, fun i => hplain (.reserved i)⟩
  · rw [hamode, State.writeAmode_code hm]
  · rw [hamode, State.writeAmode_ignored hw]
  · rw [hset, State.writeEvenSet, if_pos ha]
    rfl
  · rw [hset, State.writeEvenSet, if_neg (by simp [ha])]
  · rw [hplain, State.writePlain_arg]

/-! ### ADATA -/

theorem State.takeAdata_attached {k : AccessKind} (h : s.attached p = true) : s.takeAdata p k =
    s.onPort p fun r => { r with request := some { kind := k, view := r.aaddr, session := r.session } } := by
  rw [State.takeAdata, if_pos h]

/-- An access of a port that is not ATTACHED is answered at once, a read with FFFFH (R92). -/
theorem State.takeAdata_not_attached {k : AccessKind} (h : s.attached p = false) : s.takeAdata p k =
    s.onPort p fun r => { r with answer := r.answerFor k Config.refusedRead } := by
  rw [State.takeAdata, if_neg (by simp [h])]

/-- Settles O37: a port that responds takes the cycle at once, ATTACHED or DETACHED. -/
theorem adataCyclesPlaceRequests : Obligations.AdataCyclesPlaceRequests := by
  intro s p w hbusy hended
  have hrun (hup : (s.port p).mode ≠ .down) : exec (.adataRead p) s = .next (s.takeAdata p .read)
      ∧ exec (.adataWrite p w) s = .next (s.takeAdata p (.write w)) :=
    ⟨exec_ready ⟨hup, hbusy⟩ rfl rfl, exec_ready ⟨hup, hbusy⟩ rfl rfl⟩
  refine ⟨fun ha => ?_, fun hd => ?_⟩
  · obtain ⟨hread, hwrite⟩ := hrun (by rw [State.attached_iff.mp ha]; decide)
    rw [hread, hwrite, State.takeAdata_attached ha, State.takeAdata_attached ha]
    exact ⟨rfl, rfl⟩
  · obtain ⟨hread, hwrite⟩ := hrun (by rw [hd]; decide)
    have hnot : s.attached p = false := by simp [State.attached, hd]
    obtain ⟨_, _, hheld⟩ := PortState.busy_eq_false_iff.mp hbusy
    rw [hread, hwrite, State.takeAdata_not_attached hnot, State.takeAdata_not_attached hnot]
    refine ⟨congrArg Host.Outcome.next (State.onPort_congr _ p ?_), rfl⟩
    rw [PortState.answerFor_read (PortState.accessEndedEarly_eq_false hheld hended)]
    rfl

/-! ### TAKE_FAULT -/

theorem exec_takeFault_of {a : Reply} (h : s.CanCommand p) (hw : takeFaultWork p s = a) :
    exec (.takeFault p) s = .next (a.state.post p 0x52 a.result a.words) := exec_open h hw rfl rfl rfl rfl rfl

/-- The fields of RES0 of TAKE_FAULT, by number (Table 10-15). -/
theorem FaultRecord.summary_eq (f : FaultRecord) : f.summary.toNat =
    (if f.more then 256 else 0) + (if f.dir = .write then 16 else 0)
      + (match f.kind with
        | .unmapped => 1
        | .rights => 2
        | .guard => 3) := by
  have hmore : f.more.toNat * 256 = if f.more then 256 else 0 := by cases f.more <;> rfl
  have hdir : f.dir.code.toNat * 16 = if f.dir = .write then 16 else 0 := by cases f.dir <;> rfl
  rw [FaultRecord.summary_toNat, hmore, hdir]
  cases f.kind <;> rfl

/-- Settles O42: an empty record is reported, a full one returned and emptied. -/
theorem takeFaultEmptiesTheRecord : Obligations.TakeFaultEmptiesTheRecord := by
  intro s p h
  refine ⟨fun hf => ?_, fun f hf => ⟨f.summary, ?_, f.summary_eq⟩⟩
  · exact exec_takeFault_of h (by rw [takeFaultWork, hf])
  · have hwork : takeFaultWork p s =
        { state := s.onPort p fun r => { r with fault := none }, result := .ok, words := f.words } := by
      rw [takeFaultWork, hf]
    rw [exec_takeFault_of h hwork]
    refine congrArg (fun ws => Host.Outcome.next (State.post _ p 0x52 .ok (f.summary :: f.view :: ws))) ?_
    simp only [List.cons.injEq, and_true]
    refine ⟨?_, ?_, ?_⟩
    · cases f.mem <;> rfl
    · cases f.window with
      | none => rfl
      | some i => exact presentWord_fin i (by decide)
    · cases f.guard with
      | none => rfl
      | some l => exact presentWord_fin l (by decide)

end Sys2Proof.Machine
end

section
/-! PROOF. The laws of the copy engine (R97, R98, R100, R101, R105): what each operation on the queue leaves of them, and that every
step keeps them. -/

namespace Sys2Proof.Machine

variable {s t : State} {p q : Port} {c : Instr} {e : Engine} {d : Descriptor} {rest : List Descriptor}

/-! ### The queue between a change and the engine's step -/

/-- What the engine's step of Table 5-2 needs of the queue: at most 8 descriptors, each lawful, every one behind the head QUEUED. -/
structure Engine.Settleable (e : Engine) : Prop where
  length_le : e.queue.length ≤ Config.copySlots
  lawful : ∀ d ∈ e.queue, d.Lawful
  queued : ∀ d ∈ e.queue.tail, d.state = .queued

theorem Engine.Lawful.settleable (h : e.Lawful) : e.Settleable := by
  obtain ⟨hlength, hlawful, hqueue, _⟩ := h
  refine ⟨hlength, hlawful, ?_⟩
  cases e with
  | mk queue mode requesting =>
    cases queue with
    | nil => simp
    | cons d rest =>
      cases mode with
      | idle => simp [Engine.queueLaw] at hqueue
      | running =>
        obtain ⟨_, hrest⟩ : d.state = .active ∧ ∀ x ∈ rest, x.state = .queued := by simpa [Engine.queueLaw] using hqueue
        exact hrest
      | paused => simpa [Engine.queueLaw] using hqueue

/-- The engine's step makes the queue's state the one its mode asks for (R101, R105, Table 5-2). -/
theorem Engine.Settleable.settle (h : e.Settleable) : e.settle.Lawful := by
  obtain ⟨hlength, hlawful, hqueued⟩ := h
  by_cases hmode : e.mode = .paused
  · rw [Engine.settle_paused hmode]
    refine ⟨hlength, hlawful, ?_, by simp [hmode]⟩
    cases hq : e.queue with
    | nil => simp [Engine.queueLaw, hmode]
    | cons d rest => simpa [Engine.queueLaw, hmode, hq] using hqueued
  · cases hq : e.queue with
    | nil =>
      rw [Engine.settle_empty hmode hq]
      decide
    | cons d rest =>
      rw [Engine.settle_cons hmode hq]
      rw [hq] at hlength hlawful hqueued
      obtain ⟨hd, hrest⟩ := List.forall_mem_cons.mp hlawful
      obtain ⟨hlow, hhigh, hmoved, _⟩ := hd
      refine ⟨hlength, List.forall_mem_cons.mpr ⟨⟨hlow, hhigh, hmoved, fun h => DescState.noConfusion h⟩, hrest⟩, ?_, rfl⟩
      simpa [Engine.queueLaw] using hqueued

/-- Descriptors that leave the queue (R112, R121). -/
theorem Engine.Settleable.sublist {queue : List Descriptor} (h : e.Settleable) (hq : queue.Sublist e.queue) :
    ({ e with queue := queue } : Engine).Settleable :=
  ⟨hq.length_le.trans h.length_le, fun d hd => h.lawful d (hq.subset hd), fun d hd => h.queued d (hq.tail.subset hd)⟩

/-- A QUEUED descriptor joins the tail of a queue with a free slot (R98, R104). -/
theorem Engine.Settleable.append (h : e.Settleable) (hroom : e.queue.length < Config.copySlots) (hd : d.Lawful)
    (hstate : d.state = .queued) : ({ e with queue := e.queue ++ [d] } : Engine).Settleable := by
  refine ⟨by simpa using hroom, List.forall_mem_append.mpr ⟨h.lawful, by simpa using hd⟩, fun x hx => ?_⟩
  have hqueued := h.queued
  cases hq : e.queue with
  | nil => simp [hq] at hx
  | cons y ys =>
    rw [hq] at hx hqueued
    rcases List.mem_append.mp hx with hx | hx
    · exact hqueued x hx
    · rw [List.mem_singleton.mp hx, hstate]

/-- The engine's step does not ask the mode before it (R117, R118). -/
theorem Engine.Settleable.withMode (h : e.Settleable) (m : EngineMode) : ({ e with mode := m } : Engine).Settleable :=
  ⟨h.length_le, h.lawful, h.queued⟩

/-- One word more of the ACTIVE head has been moved, and it was not the last (R106, R112). -/
theorem Engine.Settleable.move (h : e.Settleable) (hq : e.queue = d :: rest) (hstate : d.state = .active)
    (hmoved : d.moved + 1 < d.length) :
    ({ e with queue := { d with moved := d.moved + 1 } :: rest } : Engine).Settleable := by
  obtain ⟨hlength, hlawful, hqueued⟩ := h
  rw [hq] at hlength hlawful hqueued
  obtain ⟨⟨hlow, hhigh, _, _⟩, hrest⟩ := List.forall_mem_cons.mp hlawful
  exact ⟨hlength, List.forall_mem_cons.mpr ⟨⟨hlow, hhigh, hmoved, by simp [hstate]⟩, hrest⟩, hqueued⟩

/-- An engine whose request waits at the arbiter is RUNNING, with an ACTIVE head (R101, R105). -/
theorem Engine.Lawful.running (h : e.Lawful) (hr : e.requesting = true) : e.mode = .running := by
  obtain ⟨_, _, _, hrequesting⟩ := h
  simpa [hr] using hrequesting

theorem Engine.Lawful.head_active (h : e.Lawful) (hr : e.requesting = true) (hq : e.queue = d :: rest) : d.state = .active := by
  have hmode := h.running hr
  obtain ⟨_, _, hlaw, _⟩ := h
  simp only [Engine.queueLaw, hmode, hq, Bool.and_eq_true, beq_iff_eq] at hlaw
  exact hlaw.1

/-! ### The count of a port's descriptors -/

/-- The descriptors of port `p` in the queue: its copy count but for its records (R100). -/
def Engine.copies (e : Engine) (p : Port) : Nat := e.queue.countP fun d => d.requester == p

theorem State.copyCount_eq (s : State) (p : Port) : s.copyCount p = s.engine.copies p + (s.port p).completions.length := rfl

@[simp] theorem Engine.copies_settle (e : Engine) (p : Port) : e.settle.copies p = e.copies p := by
  have h := congrArg (List.countP (· == p)) (e.settle_map Descriptor.requester fun _ => rfl)
  simpa [Engine.copies, List.countP_map, Function.comp_def] using h

theorem Engine.copies_sublist {queue : List Descriptor} (hq : queue.Sublist e.queue) (p : Port) :
    ({ e with queue := queue } : Engine).copies p ≤ e.copies p := hq.countP_le

theorem Engine.copies_append (e : Engine) (d : Descriptor) (p : Port) :
    ({ e with queue := e.queue ++ [d] } : Engine).copies p = e.copies p + if d.requester = p then 1 else 0 := by
  simp [Engine.copies, List.countP_append, List.countP_cons]

/-- A descriptor taken out of the queue, wherever it stands. -/
theorem Engine.copies_remove {before behind : List Descriptor} (hq : e.queue = before ++ d :: behind) (p : Port) :
    ({ e with queue := before ++ behind } : Engine).copies p + (if d.requester = p then 1 else 0) = e.copies p := by
  simp only [Engine.copies, hq, List.countP_append, List.countP_cons, beq_iff_eq]
  omega

/-! ### Changes that leave the engine and the records alone -/

theorem State.CopiesLawful.of_same (hs : s.CopiesLawful) (he : t.engine = s.engine)
    (hc : ∀ p, (t.port p).completions = (s.port p).completions) : t.CopiesLawful := by
  refine ⟨by rw [he]; exact hs.1, fun p => ?_⟩
  rw [State.copyCount_eq, he, hc]
  exact hs.2 p

theorem State.CopiesLawful.mapPorts {f : Port → PortState → PortState} (hs : s.CopiesLawful)
    (hf : ∀ q r, (f q r).completions = r.completions) : (s.mapPorts f).CopiesLawful :=
  hs.of_same rfl fun q => by rw [State.port_mapPorts, hf]

theorem State.CopiesLawful.onPort {f : PortState → PortState} (hs : s.CopiesLawful)
    (hf : ∀ r, (f r).completions = r.completions := by exact fun _ => rfl) : (s.onPort p f).CopiesLawful :=
  hs.mapPorts fun q r => by
    split
    · exact hf r
    · rfl

theorem State.CopiesLawful.post {code : Byte} {r : Result} {ws : List Word} (hs : s.CopiesLawful) :
    (s.post p code r ws).CopiesLawful := hs.onPort

theorem State.CopiesLawful.lockEvent {f : LockNo → LockRec → LockChange} (hs : s.CopiesLawful) : (s.lockEvent f).CopiesLawful :=
  hs.of_same rfl fun _ => State.lockEvent_port_completions ..

theorem State.CopiesLawful.onLock {l : LockNo} {g : LockRec → LockChange} (hs : s.CopiesLawful) : (s.onLock l g).CopiesLawful :=
  hs.lockEvent

theorem State.CopiesLawful.setWindowRec {i : WindowNo} {w : Window} (hs : s.CopiesLawful) : (s.setWindowRec i w).CopiesLawful :=
  hs.of_same (State.engine_setWindowRec ..) fun q => by rw [State.port_setWindowRec]

/-- The tick divider, the running count and the default rights (R33, R70). -/
theorem State.CopiesLawful.configured {d : Byte} {n : Nat} {r : Rights} (hs : s.CopiesLawful) :
    ({ s with divider := d, count := n, defaultRights := r } : State).CopiesLawful := hs.of_same rfl fun _ => rfl

/-- The laws of the copy engine do not read what the bus changes. -/
theorem State.copiesLawful_busBlind : BusBlind State.CopiesLawful := fun _ _ f hf hu =>
  hu.onPort fun r => by rw [show f r = _ from hf r]

/-! ### The copy engine's own changes -/

/-- The engine takes its step with a queue in which no port has more descriptors than before. -/
theorem State.CopiesLawful.settle (hs : s.CopiesLawful) (he : e.Settleable) (hc : ∀ p, e.copies p ≤ s.engine.copies p) :
    (s.setEngine e.settle).CopiesLawful := by
  refine ⟨he.settle, fun p => le_trans ?_ (hs.2 p)⟩
  rw [State.copyCount_eq, State.copyCount_eq, State.engine_setEngine, Engine.copies_settle]
  exact Nat.add_le_add_right (hc p) _

theorem State.endDescriptor_engine {st : CopyStatus} :
    (s.endDescriptor rest d st).engine = ({ s.engine with queue := rest } : Engine).settle := rfl

/-- A descriptor that ends, wherever it stands, gives its place in the port's count to its record (R100, R112). -/
theorem State.CopiesLawful.endDescriptor {before behind : List Descriptor} {d' : Descriptor} {st : CopyStatus}
    (hs : s.CopiesLawful) (hq : s.engine.queue = before ++ d :: behind) (hd : d'.requester = d.requester) :
    (s.endDescriptor (before ++ behind) d' st).CopiesLawful := by
  have hleft : (before ++ behind).Sublist s.engine.queue := by
    rw [hq]
    exact (List.sublist_cons_self d behind).append_left before
  refine ⟨(hs.1.settleable.sublist hleft).settle, fun p => ?_⟩
  have hcount := hs.2 p
  have hcopies : (s.endDescriptor (before ++ behind) d' st).engine.copies p + (if d.requester = p then 1 else 0)
      = s.engine.copies p := by
    rw [State.endDescriptor_engine, Engine.copies_settle]
    exact Engine.copies_remove hq p
  have hrecords : ((s.endDescriptor (before ++ behind) d' st).port p).completions.length
      = (s.port p).completions.length + if d.requester = p then 1 else 0 := by
    rw [State.endDescriptor, State.addCompletion, hd]
    by_cases h : d.requester = p
    · simp [h]
    · simp [h, Ne.symm h]
  rw [State.copyCount_eq] at hcount ⊢
  rw [hrecords]
  omega

/-- The arguments that the check of COPY and FILL accepts (R103). -/
theorem length_of_copyArgs {a b : Word} {tag : Byte} {n : Nat} (h : copyArgs a b = some (tag, n)) :
    1 ≤ n ∧ n ≤ Config.longestCopy := by
  unfold copyArgs at h
  split at h
  · next hr =>
    cases h
    exact range_of_rangeField hr
  · cases h

/-- A descriptor is accepted only with a free place in the port's count and in the queue (R98, R100, R103). -/
theorem State.CopiesLawful.acceptCopy {tag : Byte} {job : CopyJob} {dest : Word} {n : Nat} (hs : s.CopiesLawful)
    (hn : 1 ≤ n ∧ n ≤ Config.longestCopy) (hfree : s.copyCount p < Config.copiesPerPort)
    (hroom : s.engine.queue.length < Config.copySlots) : (s.acceptCopy p tag job dest n).CopiesLawful := by
  have hlawful (state : DescState) : Descriptor.Lawful
      { requester := p, serial := (s.port p).serial + 1, tag := tag, job := job, dest := dest, length := n, moved := 0,
        state := state } := ⟨hn.1, hn.2, hn.1, fun _ => rfl⟩
  refine State.CopiesLawful.onPort ⟨(hs.1.settleable.append hroom (hlawful .queued) rfl).settle, fun q => ?_⟩
  have hq := hs.2 q
  rw [State.copyCount_eq] at hq hfree ⊢
  rw [State.engine_setEngine, Engine.copies_settle, Engine.copies_append, State.port_setEngine]
  by_cases h : p = q
  · subst h
    rw [if_pos rfl]
    omega
  · rw [if_neg h]
    exact hq

theorem State.CopiesLawful.copyRequest {job : CopyJob} (hs : s.CopiesLawful) : (s.copyRequest p job).state.CopiesLawful := by
  unfold State.copyRequest
  split
  · exact hs
  · next hargs =>
    split
    · exact hs
    · next hfree =>
      split
      · exact hs
      · next hroom => exact hs.acceptCopy (length_of_copyArgs hargs) (not_le.mp hfree) (not_le.mp hroom)

/-- The oldest descriptor that a serial names, and what is left of the queue without it (R114). -/
theorem eraseP_first {f : Descriptor → Bool} {before behind : List Descriptor} (hd : f d = true)
    (hbefore : ∀ x ∈ before, f x = false) : (before ++ d :: behind).eraseP f = before ++ behind := by
  rw [List.eraseP_append_right _ (by simpa using hbefore), List.eraseP_cons_of_pos hd]

theorem cancelCopyWork_copiesLawful (hs : s.CopiesLawful) : (cancelCopyWork p s).state.CopiesLawful := by
  unfold cancelCopyWork
  split
  · exact hs
  · split
    · next d hfind =>
      obtain ⟨hd, before, behind, hq, hbefore⟩ := List.find?_eq_some_iff_append.mp hfind
      have hleft := eraseP_first (behind := behind) hd (by simpa using hbefore)
      rw [hq, hleft]
      exact hs.endDescriptor hq rfl
    · split <;> exact hs

theorem takeCompletionWork_copiesLawful (hs : s.CopiesLawful) : (takeCompletionWork p s).state.CopiesLawful := by
  unfold takeCompletionWork
  split
  · exact hs
  · next c cs hcs =>
    refine ⟨hs.1, fun q => le_trans ?_ (hs.2 q)⟩
    refine Nat.add_le_add_left ?_ _
    rw [State.port_onPort]
    split
    · next hq =>
      subst hq
      simp [hcs]
    · exact le_rfl

/-- PAUSE_COPY keeps the queue and withdraws the request (R117). -/
theorem pauseCopyWork_copiesLawful (hs : s.CopiesLawful) : (pauseCopyWork p s).state.CopiesLawful := by
  have h := hs.settle (hs.1.settleable.withMode .paused) fun _ => le_rfl
  rwa [Engine.settle_paused rfl] at h

theorem resumeCopyWork_copiesLawful (hs : s.CopiesLawful) : (resumeCopyWork p s).state.CopiesLawful := by
  unfold resumeCopyWork
  split
  · exact hs.settle (hs.1.settleable.withMode .idle) fun _ => le_rfl
  · exact hs
  · exact hs

/-- A session end takes the port's descriptors and records (R121). -/
theorem State.CopiesLawful.endSession {m : PortMode} (hs : s.CopiesLawful) (hm : m ≠ .attached) :
    (s.endSession p m).CopiesLawful := by
  have hleft : (s.engine.queue.filter fun d => d.requester != p).Sublist s.engine.queue := List.filter_sublist
  refine ⟨(hs.1.settleable.sublist hleft).settle, fun q => le_trans (Nat.add_le_add ?_ ?_) (hs.2 q)⟩
  · show Engine.copies (Engine.settle _) q ≤ _
    rw [Engine.copies_settle]
    exact Engine.copies_sublist hleft q
  · by_cases hq : q = p
    · rw [hq, State.endSession_port_self _ _ _ hm]
      exact Nat.zero_le _
    · rw [State.endSession_port_other _ _ _ _ hq]
      split <;> exact le_rfl

/-! ### The taking of a cycle -/

theorem State.CopiesLawful.issue {work : State → Reply} (hs : s.CopiesLawful) (h : (work s).state.CopiesLawful) :
    (s.issue c p work).CopiesLawful :=
  State.issue_keeps hs (fun _ _ _ _ ht => ht.post) fun _ => h

theorem State.CopiesLawful.withLock {k : LockNo → Reply} (hs : s.CopiesLawful) (hk : ∀ l, (k l).state.CopiesLawful) :
    (s.withLock p k).state.CopiesLawful := by
  unfold State.withLock
  split
  · exact hs
  · exact hk _

theorem State.CopiesLawful.attach (hs : s.CopiesLawful) : (s.attach p).CopiesLawful := by
  unfold State.attach State.announceUp
  split
  · exact hs.post
  · refine State.CopiesLawful.post (hs.onPort.mapPorts fun q r => ?_)
    split <;> rfl

/-- The taking of a cycle keeps the laws: only the copy commands and the session ends touch the engine or a completion list, and
every other cycle ends in a lock-table event or in a change of records of its own block. -/
theorem State.CopiesLawful.takeCycle (hs : s.CopiesLawful) (c : Instr) : (takeCycle c s).CopiesLawful := by
  cases c with
  | copy p | fill p => exact hs.issue hs.copyRequest
  | cancelCopy p => exact hs.issue (cancelCopyWork_copiesLawful hs)
  | takeCompletion p => exact hs.issue (takeCompletionWork_copiesLawful hs)
  | pauseCopy p => exact hs.issue (pauseCopyWork_copiesLawful hs)
  | resumeCopy p => exact hs.issue (resumeCopyWork_copiesLawful hs)
  | detach p => exact hs.issue (hs.endSession (by decide))
  | evict p =>
    refine hs.issue ?_
    unfold evictWork
    repeat' split
    all_goals with_reducible first | exact hs | exact hs.endSession (by decide)
  | acquire p =>
    refine hs.issue (hs.withLock fun l => ?_)
    unfold State.decideAcquire
    repeat' split
    all_goals with_reducible first | exact hs | exact hs.onLock
  | release p | renew p | withdraw p | lockStatus p | setLock p | breakLock p =>
    refine hs.issue (hs.withLock fun l => ?_)
    repeat' split
    all_goals with_reducible first | exact hs | exact hs.onLock
  | setTick p | probe p | getWindow p | setWindow p | setDefaultRights p | msgStatus p =>
    refine hs.issue ?_
    dsimp only [setTickWork, probeWork, getWindowWork, setWindowWork, setDefaultRightsWork, msgStatusWork]
    repeat' split
    all_goals with_reducible first | exact hs | exact hs.setWindowRec | exact hs.configured
  | send p | receive p | setQuota p | takeLockEvents p | takePeerEvents p | takeFault p =>
    refine hs.issue ?_
    dsimp only [sendWork, State.deliver, receiveWork, setQuotaWork, takeLockEventsWork, takePeerEventsWork, takeFaultWork]
    repeat' split
    all_goals with_reducible first | exact hs | exact hs.onPort
  | attach p => exact hs.attach
  | poolStatus p | badCommand p w | adataRead p | adataWrite p w | amodeWrite p w | evenSet p w | evenClr p w
  | registerWrite p r w =>
    dsimp only [Machine.takeCycle, State.beginPoolStatus, State.takeAdata, State.writeAmode, State.writeEvenSet,
      State.writeEvenClr, State.writePlain]
    repeat' split
    all_goals with_reducible first | exact hs | exact hs.post | exact hs.onPort
  | _ => exact hs

/-! ### The grants of the arbiter -/

/-- A change of a port's record that leaves its completion list alone. -/
theorem State.port_onPort_completions {f : PortState → PortState} (hf : ∀ r, (f r).completions = r.completions) :
    ((s.onPort p f).port p).completions = (s.port p).completions := by
  rw [State.port_onPort_self, hf]

/-- The service of an access leaves every completion list alone. -/
theorem State.serveAccess_completions {x : AccessRequest} :
    ((s.serveAccess p x).port q).completions = (s.port q).completions := by
  by_cases hq : q = p
  · rw [hq]
    unfold State.serveAccess State.servePermitted
    repeat' split
    all_goals exact State.port_onPort_completions fun _ => rfl
  · rw [State.serveAccess_port_of_ne hq]

theorem State.CopiesLawful.grantPort (hs : s.CopiesLawful) : (s.grantPort p).CopiesLawful := by
  cases hx : (s.port p).request with
  | none =>
    rw [State.grantPort, hx]
    exact hs
  | some x =>
    obtain ⟨hengine, _⟩ := State.serveAccess_frame (s := s.movedPast p) (p := p) (q := x)
    rw [State.grantPort_of_request hx]
    exact hs.of_same hengine fun _ => State.serveAccess_completions (s := s.movedPast p)

/-- One word move of an ACTIVE head (R106, R109, R112). -/
theorem State.CopiesLawful.serveWord (hs : s.CopiesLawful) (hq : s.engine.queue = d :: rest) (hstate : d.state = .active) :
    (s.serveWord d rest).CopiesLawful := by
  obtain ⟨_, _, hbelow, _⟩ := hs.1.settleable.lawful d (by simp [hq])
  unfold State.serveWord
  split
  · exact hs.endDescriptor (before := []) hq rfl
  · next m _ =>
    have hm : ({ s with mem := m } : State).CopiesLawful := hs
    split
    · exact hm.endDescriptor (before := []) hq rfl
    · next hmore =>
      have hmoved : d.moved + 1 < d.length := lt_of_le_of_ne hbelow hmore
      refine hm.settle (hs.1.settleable.move hq hstate hmoved) fun p => le_of_eq ?_
      simp [Engine.copies, hq, List.countP_cons]

/-- The grant of the arbiter's choice moves a word of an ACTIVE head: a PAUSED engine has no request (R105, R117). -/
theorem State.CopiesLawful.grantEngine (hs : s.CopiesLawful) (h : s.choice = some .engine) : s.grantEngine.CopiesLawful := by
  have hrequest := State.requesting_of_choice h
  have hmoved : ({ s with position := Requester.engine.following } : State).CopiesLawful := hs
  unfold State.grantEngine
  split
  · exact hmoved.settle hs.1.settleable fun _ => le_rfl
  · next d rest hq => exact hmoved.serveWord hq (hs.1.head_active hrequest hq)

/-! ### The lease timer and the resets -/

theorem State.CopiesLawful.tick (hs : s.CopiesLawful) : s.tick.CopiesLawful := by
  have hcount : ({ s with count := 0 } : State).CopiesLawful := hs
  exact hcount.lockEvent

theorem State.CopiesLawful.clkPeriod (hs : s.CopiesLawful) : s.clkPeriod.CopiesLawful := by
  unfold State.clkPeriod
  split
  · exact hs
  · split
    · exact hs.tick
    · exact hs

/-- RESETn empties the queue and every completion list (R123). -/
theorem State.assertReset_copiesLawful : s.assertReset.CopiesLawful := by
  have hengine : s.assertReset.engine = Engine.reset := rfl
  refine ⟨by rw [hengine]; decide, fun p => ?_⟩
  have hport : s.assertReset.port p = { PortState.reset with prstAsserted := (s.port p).prstAsserted } := by
    simp [State.assertReset, State.port]
  rw [State.copyCount_eq, hengine, hport]
  exact Nat.zero_le _

theorem State.CopiesLawful.negateReset {csel : Port} (hs : s.CopiesLawful) : (s.negateReset csel).CopiesLawful := by
  have hsampled : ({ s with resetAsserted := false, control := some csel } : State).CopiesLawful := hs
  unfold State.negateReset
  split
  · exact hs
  · refine hsampled.mapPorts fun q r => ?_
    split <;> rfl

theorem State.CopiesLawful.assertPortReset (hs : s.CopiesLawful) : (s.assertPortReset p).CopiesLawful := by
  unfold State.assertPortReset
  split
  · exact hs.onPort
  · exact hs.onPort
  · exact (hs.endSession (by decide)).onPort

theorem State.CopiesLawful.negatePortReset (hs : s.CopiesLawful) : (s.negatePortReset p).CopiesLawful := by
  unfold State.negatePortReset
  exact hs.onPort

/-! ### Every step -/

/-- A command or event keeps the laws. The engine's request is granted only where it is the arbiter's choice, which is why the
commands and events are gone through here: a grant to a PAUSED engine would break the law of QUEUED descriptors. -/
theorem State.CopiesLawful.exec (hs : s.CopiesLawful) (h : exec c s = .next t) : t.CopiesLawful := by
  cases hp : c.port? with
  | some p =>
    rw [exec_next_cycle hp h]
    exact State.cycle_keeps State.copiesLawful_busBlind (fun c _ hu => hu.takeCycle c) hs
  | none =>
    cases c with
    | apertureAccess =>
      simp only [Machine.exec, execApertureAccess, Host.Outcome.next.injEq] at h
      subst h
      split
      · exact takeHeld_keeps State.copiesLawful_busBlind (fun c _ _ hu => hu.takeCycle c) hs.grantPort
      · exact hs
      · exact hs
    | copyWordMove =>
      simp only [Machine.exec, execCopyWordMove, Host.Outcome.next.injEq] at h
      subst h
      split
      · next hc => exact hs.grantEngine hc
      · exact hs
      · exact hs
    | leaseTick =>
      simp only [Machine.exec, execLeaseTick, Host.Outcome.next.injEq] at h
      subst h
      split
      · exact hs
      · exact hs.tick
    | waitExpiry l p => cases h; exact hs.onLock
    | leaseExpiry l => cases h; exact hs.onLock
    | resetnAsserted => cases h; exact State.assertReset_copiesLawful
    | resetnNegated csel => cases h; exact hs.negateReset
    | prstnAsserted p => cases h; exact hs.assertPortReset
    | prstnNegated p => cases h; exact hs.negatePortReset
    | cycleEndedEarly p =>
      simp only [Machine.exec, execCycleEndedEarly, State.endCycleEarly, Host.Outcome.next.injEq] at h
      subst h
      split
      · exact hs.onPort
      · exact hs
    | _ => cases hp

/-- Settles O11: the front command, what a bus does on an empty queue, and a CLK period. -/
theorem stepKeepsCopyLaws : Obligations.StepKeepsCopyLaws := by
  intro s t hs h
  rcases step_cases h with ⟨c, rest, _, hx⟩ | ⟨p, _, _, rfl⟩ | ⟨_, _, rfl⟩
  · exact State.CopiesLawful.exec (s := { s with pending := rest }) hs hx
  · exact State.busStep_keeps State.copiesLawful_busBlind (fun c _ hu => hu.takeCycle c) hs
  · exact hs.clkPeriod

end Sys2Proof.Machine
end

section
/-! PROOF. The copy commands as runs of their work (R103, R104, R113 to R118): the reply of each check, and what the accepted command
leaves of the engine and of the completion lists. -/

namespace Sys2Proof.Machine

variable {s : State} {p : Port} {d : Descriptor} {j : CopyJob} {a b : Word}

section
variable {a : Reply} (h : s.CanCommand p)
include h

theorem exec_copy_of (hw : s.copyRequest p (.copy (s.arg p 1)) = a) :
    exec (.copy p) s = .next (a.state.post p 0x30 a.result a.words) := exec_open (cmd := copyWork p) h hw rfl rfl rfl rfl rfl

theorem exec_fill_of (hw : s.copyRequest p (.fill (s.arg p 1)) = a) :
    exec (.fill p) s = .next (a.state.post p 0x31 a.result a.words) := exec_open (cmd := fillWork p) h hw rfl rfl rfl rfl rfl

theorem exec_cancelCopy_of (hw : cancelCopyWork p s = a) :
    exec (.cancelCopy p) s = .next (a.state.post p 0x32 a.result a.words) := exec_open h hw rfl rfl rfl rfl rfl

theorem exec_takeCompletion_of (hw : takeCompletionWork p s = a) :
    exec (.takeCompletion p) s = .next (a.state.post p 0x33 a.result a.words) := exec_open h hw rfl rfl rfl rfl rfl

theorem exec_pauseCopy_of (hk : s.isControl p = true) (hw : pauseCopyWork p s = a) :
    exec (.pauseCopy p) s = .next (a.state.post p 0x38 a.result a.words) := exec_control h hk hw rfl rfl rfl rfl

theorem exec_resumeCopy_of (hk : s.isControl p = true) (hw : resumeCopyWork p s = a) :
    exec (.resumeCopy p) s = .next (a.state.post p 0x39 a.result a.words) := exec_control h hk hw rfl rfl rfl rfl

end

/-! ### COPY and FILL -/

theorem copyArgs_of (ha : a.toNat ≤ 255) (hlow : 1 ≤ b.toNat) (hhigh : b.toNat ≤ 4096) :
    copyArgs a b = some (a.setWidth 8, b.toNat) := by
  rw [copyArgs, byteField_of ha, rangeField_of (b := Config.longestCopy) hlow hhigh]

theorem copyArgs_none (h : 255 < a.toNat ∨ b.toNat = 0 ∨ 4096 < b.toNat) : copyArgs a b = none := by
  unfold copyArgs
  rcases h with ha | hb
  · rw [byteField_none ha]
  · have hrange : b.toNat < 1 ∨ Config.longestCopy < b.toNat := hb.imp_left Nat.lt_one_iff.mpr
    rw [rangeField_none hrange]
    cases byteField a <;> rfl

theorem State.copyRequest_badArg (h : copyArgs (s.arg p 0) (s.arg p 3) = none) :
    s.copyRequest p j = { state := s, result := .badArg } := by
  rw [State.copyRequest, h]

section
variable {tag : Byte} {n : Nat} (h : copyArgs (s.arg p 0) (s.arg p 3) = some (tag, n))
include h

theorem State.copyRequest_copyLimit (hcount : 4 ≤ s.copyCount p) :
    s.copyRequest p j = { state := s, result := .copyLimit } := by
  rw [State.copyRequest, h]
  exact if_pos hcount

theorem State.copyRequest_queueFull (hcount : s.copyCount p < 4) (hqueue : 8 ≤ s.engine.queue.length) :
    s.copyRequest p j = { state := s, result := .queueFull } := by
  rw [State.copyRequest, h]
  exact (if_neg (Nat.not_le.mpr hcount)).trans (if_pos hqueue)

theorem State.copyRequest_accepts (hcount : s.copyCount p < 4) (hqueue : s.engine.queue.length < 8) :
    s.copyRequest p j =
      { state := s.acceptCopy p tag j (s.arg p 2) n, result := .ok, words := [((s.port p).serial + 1).setWidth 16] } := by
  rw [State.copyRequest, h]
  exact (if_neg (Nat.not_le.mpr hcount)).trans (if_neg (Nat.not_le.mpr hqueue))

end

/-- The descriptor that an accepted COPY or FILL leaves in the queue: an IDLE engine has started it (R103, R104). -/
def State.newCopy (s : State) (p : Port) (j : CopyJob) : Descriptor :=
  { requester := p, serial := (s.port p).serial + 1, tag := (s.arg p 0).setWidth 8, job := j, dest := s.arg p 2,
    length := (s.arg p 3).toNat, moved := 0, state := if s.engine.mode = .idle then .active else .queued }

/-- The engine that an accepted COPY or FILL leaves (R104). -/
def State.engineWith (s : State) (d : Descriptor) : Engine :=
  { queue := s.engine.queue ++ [d], mode := if s.engine.mode = .idle then .running else s.engine.mode,
    requesting := decide (s.engine.mode ≠ .paused) }

theorem State.acceptCopy_eq (h : s.engine.Lawful) :
    s.acceptCopy p ((s.arg p 0).setWidth 8) j (s.arg p 2) (s.arg p 3).toNat =
      (s.setEngine (s.engineWith (s.newCopy p j))).onPort p fun r => { r with serial := r.serial + 1 } := by
  rw [State.acceptCopy, Engine.settle_append h rfl]
  rfl

/-- Settles O45: the three checks in their order, and the acceptance. -/
theorem copyAndFillAreCheckedAndAccepted : Obligations.CopyAndFillAreCheckedAndAccepted := by
  intro s p h
  refine ⟨fun hbad => ?_, fun htag hlow hhigh => ?_⟩
  · have hargs := copyArgs_none hbad
    exact ⟨exec_copy_of h (State.copyRequest_badArg hargs), exec_fill_of h (State.copyRequest_badArg hargs)⟩
  have hargs := copyArgs_of htag hlow hhigh
  refine ⟨fun hcount => ?_, fun hcount hqueue => ?_, fun hcount hqueue hlawful => ?_⟩
  · exact ⟨exec_copy_of h (State.copyRequest_copyLimit hargs hcount), exec_fill_of h (State.copyRequest_copyLimit hargs hcount)⟩
  · exact ⟨exec_copy_of h (State.copyRequest_queueFull hargs hcount hqueue),
      exec_fill_of h (State.copyRequest_queueFull hargs hcount hqueue)⟩
  · refine ⟨s.newCopy p, fun j => s.engineWith (s.newCopy p j), fun _ => rfl, fun _ => rfl, ?_, ?_⟩
    · rw [exec_copy_of h (State.copyRequest_accepts hargs hcount hqueue), State.acceptCopy_eq hlawful]
    · rw [exec_fill_of h (State.copyRequest_accepts hargs hcount hqueue), State.acceptCopy_eq hlawful]

/-! ### CANCEL_COPY -/

theorem Descriptor.named_iff {n : Byte} : d.named p n = true ↔ d.requester = p ∧ d.serial = n := by
  simp [Descriptor.named]

theorem Descriptor.named_eq_false_iff {n : Byte} : d.named p n = false ↔ ¬(d.requester = p ∧ d.serial = n) := by
  rw [← Descriptor.named_iff, Bool.not_eq_true]

theorem byteField_eq {n : Byte} (h : a.toNat = n.toNat) : byteField a = some n := by
  have hn := n.isLt
  rw [byteField_of (by omega)]
  refine congrArg some (BitVec.eq_of_toNat_eq ?_)
  rw [BitVec.toNat_setWidth, h, Nat.mod_eq_of_lt hn]

theorem cancelCopyWork_badArg (h : 255 < (s.arg p 0).toNat) : cancelCopyWork p s = { state := s, result := .badArg } := by
  rw [cancelCopyWork, byteField_none h]

section
variable {n : Byte} (hn : byteField (s.arg p 0) = some n)
include hn

/-- The oldest named descriptor ends CANCELLED (R114, R115). -/
theorem cancelCopyWork_cancels {before behind : List Descriptor} (hq : s.engine.queue = before ++ d :: behind)
    (hd : d.named p n = true) (hbefore : ∀ x ∈ before, x.named p n = false) :
    cancelCopyWork p s = { state := s.endDescriptor (before ++ behind) d .cancelled, result := .ok } := by
  have hfind : s.engine.queue.find? (Descriptor.named p n) = some d :=
    List.find?_eq_some_iff_append.mpr ⟨hd, before, behind, hq, by simpa using hbefore⟩
  have hleft : s.engine.queue.eraseP (Descriptor.named p n) = before ++ behind := by rw [hq, eraseP_first hd hbefore]
  simp only [cancelCopyWork, hn, hfind, hleft]

section
variable (hnone : ∀ x ∈ s.engine.queue, x.named p n = false)
include hnone

/-- Without a named descriptor, the port's records decide (R114, R116). -/
theorem cancelCopyWork_none : cancelCopyWork p s =
    { state := s, result := if (s.port p).completions.any (fun c => c.serial == n) then .complete else .noSuchCopy } := by
  have hfind : s.engine.queue.find? (Descriptor.named p n) = none := List.find?_eq_none.mpr (by simpa using hnone)
  simp only [cancelCopyWork, hn, hfind]
  split <;> rfl

theorem cancelCopyWork_complete (hc : ∃ c ∈ (s.port p).completions, c.serial = n) :
    cancelCopyWork p s = { state := s, result := .complete } := by
  rw [cancelCopyWork_none hn hnone, if_pos (by simpa using hc)]

theorem cancelCopyWork_noSuchCopy (hc : ∀ c ∈ (s.port p).completions, c.serial ≠ n) :
    cancelCopyWork p s = { state := s, result := .noSuchCopy } := by
  rw [cancelCopyWork_none hn hnone, if_neg (by simpa using hc)]

end

end

/-- Settles O48: the serial's check, the named descriptor, and the port's records. -/
theorem cancelEndsOwnDescriptor : Obligations.CancelEndsOwnDescriptor := by
  intro s p h
  refine ⟨fun hbad => exec_cancelCopy_of h (cancelCopyWork_badArg hbad), fun n hserial => ?_⟩
  have hn := byteField_eq hserial
  refine ⟨fun before d behind hq hp hs hbefore => ?_, fun hnone => ?_⟩
  · have hd : d.named p n = true := Descriptor.named_iff.mpr ⟨hp, hs⟩
    rw [exec_cancelCopy_of h
      (cancelCopyWork_cancels hn hq hd fun x hx => Descriptor.named_eq_false_iff.mpr (hbefore x hx)), ← hp]
    rfl
  · have hnamed : ∀ x ∈ s.engine.queue, x.named p n = false := fun x hx => Descriptor.named_eq_false_iff.mpr (hnone x hx)
    exact ⟨fun hc => exec_cancelCopy_of h (cancelCopyWork_complete hn hnamed hc),
      fun hc => exec_cancelCopy_of h (cancelCopyWork_noSuchCopy hn hnamed hc)⟩

/-! ### TAKE_COMPLETION -/

theorem takeCompletionWork_empty (h : (s.port p).completions = []) :
    takeCompletionWork p s = { state := s, result := .noRecord } := by
  rw [takeCompletionWork, h]

theorem takeCompletionWork_oldest {c : Completion} {cs : List Completion} (h : (s.port p).completions = c :: cs) :
    takeCompletionWork p s =
      { state := s.onPort p fun r => { r with completions := cs }, result := .ok, words := c.words } := by
  rw [takeCompletionWork, h]

/-- The bit of RES2 that shows the kind (Table 10-12). -/
theorem CopyKind.code_weight (k : CopyKind) : k.code.toNat * 256 = if k = .fill then 256 else 0 := by
  cases k <;> rfl

/-- The bit of RES2 that shows the direction of a refused check (Table 10-12). -/
theorem Dir.code_weight (d : Dir) : d.code.toNat * 512 = if d = .write then 512 else 0 := by
  cases d <;> rfl

/-- Settles O49: an empty list is reported, and the oldest record returned with the fields of its status. -/
theorem takeCompletionTakesTheOldest : Obligations.TakeCompletionTakesTheOldest := by
  intro s p h
  refine ⟨fun hnone => exec_takeCompletion_of h (takeCompletionWork_empty hnone), fun c cs hc => ?_⟩
  refine ⟨c.summary, c.faultView, exec_takeCompletion_of h (takeCompletionWork_oldest hc), ?_⟩
  rw [Completion.summary_toNat, CopyKind.code_weight, Completion.faultView]
  cases c.status with
  | done => exact ⟨rfl, by simp [CopyStatus.code]⟩
  | cancelled => exact ⟨rfl, by simp [CopyStatus.code]⟩
  | refused why view dir =>
    refine ⟨rfl, ?_⟩
    show dir.code.toNat * 512 + _ + (why.code.setWidth 3).toNat = _
    rw [Dir.code_weight, Nat.add_comm (if dir = .write then 512 else 0)]
    cases why <;> rfl

/-! ### PAUSE_COPY, RESUME_COPY and the engine's step -/

theorem resumeCopyWork_not_paused (h : s.engine.mode ≠ .paused) : resumeCopyWork p s = { state := s, result := .ok } := by
  unfold resumeCopyWork
  split
  · next hm => exact absurd hm h
  · rfl
  · rfl

/-- A PAUSED engine takes the step of an IDLE one with its queue (R118). -/
theorem resumeCopyWork_paused {e : Engine} (h : s.engine.mode = .paused)
    (he : ({ s.engine with mode := .idle } : Engine).settle = e) :
    resumeCopyWork p s = { state := s.setEngine e, result := .ok } := by
  rw [resumeCopyWork, h, ← he]

/-- Settles O50: the two commands, and the engine's step by its mode and its queue. -/
theorem engineStateChanges : Obligations.EngineStateChanges := by
  have hidle : EngineMode.idle ≠ .paused := by decide
  refine ⟨fun s p h hk => ⟨exec_pauseCopy_of h hk rfl, fun hm => ?_, fun hm hq => ?_, fun d ds hm hq => ?_⟩, fun e => ?_⟩
  · exact exec_resumeCopy_of h hk (resumeCopyWork_not_paused hm)
  · exact exec_resumeCopy_of h hk (resumeCopyWork_paused hm (Engine.settle_empty hidle hq))
  · exact exec_resumeCopy_of h hk (resumeCopyWork_paused hm (Engine.settle_cons hidle hq))
  · exact ⟨Engine.settle_paused, Engine.settle_empty, fun _ _ => Engine.settle_cons⟩

end Sys2Proof.Machine
end

section
/-! PROOF. One word move of the copy engine (R106 to R109, R112): the word that is moved or the check that refuses it, and what the
move leaves of the engine, the memory and the requester's completion list. -/

namespace Sys2Proof.Machine

variable {s : State} {d : Descriptor} {rest : List Descriptor} {e : Engine} {a b : MemAddr} {w v : Word} {why : Refused} {dir : Dir}

/-! ### The next word -/

theorem State.moveTo_permitted (h : s.check d.requester (d.dest + BitVec.ofNat 16 d.moved) .write = .permitted b) :
    s.moveTo d w = .moved (s.mem.write b.toNat w) := by
  rw [State.moveTo, wordAddr, h]

theorem State.moveTo_refused (h : s.check d.requester (d.dest + BitVec.ofNat 16 d.moved) .write = .refused why) :
    s.moveTo d w = .refused why (d.dest + BitVec.ofNat 16 d.moved) .write := by
  rw [State.moveTo, wordAddr, h]

/-- FILL writes its pattern to the destination (R106). -/
theorem State.moveWord_fill {pattern : Word} (hj : d.job = .fill pattern) : s.moveWord d = s.moveTo d pattern := by
  rw [State.moveWord, hj]

section
variable {source : Word} (hj : d.job = .copy source)
include hj

/-- COPY writes the source word to the destination once the source check permits the read (R106). -/
theorem State.moveWord_copy (h : s.check d.requester (source + BitVec.ofNat 16 d.moved) .read = .permitted a) :
    s.moveWord d = s.moveTo d (s.mem.read a.toNat) := by
  rw [State.moveWord, hj]
  simp only [wordAddr, h]

/-- COPY asks for its source first (R109). -/
theorem State.moveWord_source_refused (h : s.check d.requester (source + BitVec.ofNat 16 d.moved) .read = .refused why) :
    s.moveWord d = .refused why (source + BitVec.ofNat 16 d.moved) .read := by
  rw [State.moveWord, hj]
  simp only [wordAddr, h]

end

/-- The destination decides once every source check has permitted its read (R106, R109). -/
theorem State.moveWord_dest_refused (hsource : ∀ source, d.job = .copy source →
      ∃ a, s.check d.requester (source + BitVec.ofNat 16 d.moved) .read = .permitted a)
    (h : s.check d.requester (d.dest + BitVec.ofNat 16 d.moved) .write = .refused why) :
    s.moveWord d = .refused why (d.dest + BitVec.ofNat 16 d.moved) .write := by
  cases hj : d.job with
  | fill pattern => rw [State.moveWord_fill hj, State.moveTo_refused h]
  | copy source =>
    obtain ⟨a, ha⟩ := hsource source hj
    rw [State.moveWord_copy hj ha, State.moveTo_refused h]

/-! ### The three outcomes of a word move -/

theorem State.serveWord_refused (h : s.moveWord d = .refused why v dir) :
    s.serveWord d rest = s.endDescriptor rest d (.refused why v dir) := by
  rw [State.serveWord, h]

section
variable {m : Memory} (h : s.moveWord d = .moved m)
include h

theorem State.serveWord_last (hlast : d.moved + 1 = d.length) : s.serveWord d rest =
    ({ s with mem := m } : State).endDescriptor rest { d with moved := d.moved + 1 } .done := by
  rw [State.serveWord, h]
  exact if_pos hlast

theorem State.serveWord_more (hmore : d.moved + 1 ≠ d.length) : s.serveWord d rest =
    ({ s with mem := m } : State).setEngine
      ({ s.engine with queue := { d with moved := d.moved + 1 } :: rest } : Engine).settle := by
  rw [State.serveWord, h]
  exact if_neg hmore

theorem State.serveWord_moved_mem : (s.serveWord d rest).mem = m := by
  by_cases hlast : d.moved + 1 = d.length
  · rw [State.serveWord_last h hlast]
    rfl
  · rw [State.serveWord_more h hlast]
    rfl

end

/-- What a word move leaves as it is, beside the ports' records, the position, the memory and the engine. -/
theorem State.serveWord_frame :
    (∀ l, (s.serveWord d rest).lock l = s.lock l) ∧ (∀ i, (s.serveWord d rest).window i = s.window i)
      ∧ (s.serveWord d rest).defaultRights = s.defaultRights ∧ (s.serveWord d rest).control = s.control
      ∧ (s.serveWord d rest).resetAsserted = s.resetAsserted ∧ (s.serveWord d rest).divider = s.divider
      ∧ (s.serveWord d rest).count = s.count ∧ (s.serveWord d rest).pending = s.pending := by
  unfold State.serveWord
  repeat' split
  all_goals exact ⟨fun _ => rfl, fun _ => rfl, rfl, rfl, rfl, rfl, rfl, rfl⟩

/-! ### The end of a descriptor -/

theorem State.endDescriptor_port_self {st : CopyStatus} : (s.endDescriptor rest d st).port d.requester =
    { s.port d.requester with completions := (s.port d.requester).completions ++ [d.record st] } :=
  State.port_onPort_self ..

theorem State.endDescriptor_others {st : CopyStatus} : s.SameOtherPorts (s.endDescriptor rest d st) d.requester :=
  fun _ hq => State.port_onPort_of_ne _ hq _

/-- The step of an engine whose request has been granted leaves its moved head where it is (R101, R105). -/
theorem Engine.Lawful.settle_move (h : e.Lawful) (hr : e.requesting = true) (hq : e.queue = d :: rest) :
    ({ e with queue := { d with moved := d.moved + 1 } :: rest } : Engine).settle =
      { e with queue := { d with moved := d.moved + 1 } :: rest } := by
  have hmode := h.running hr
  have hstate := h.head_active hr hq
  rw [Engine.settle_cons (by simp [hmode]) rfl, ← hmode, ← hr, ← hstate]

/-! ### The grant -/

/-- The state in which a granted word move is served: the grant has moved the position past the engine (R90). -/
abbrev State.movedPastEngine (s : State) : State := { s with position := Requester.engine.following }

theorem exec_copyWordMove_head (hc : s.choice = some .engine) (hq : s.engine.queue = d :: rest) :
    exec .copyWordMove s = .next (s.movedPastEngine.serveWord d rest) := by
  rw [exec_copyWordMove_of_choice hc, State.grantEngine, hq]

/-- Settles O46: the word that is moved, the frame of the move, and the descriptor before and at its length. -/
theorem wordMovesCopyOneWord : Obligations.WordMovesCopyOneWord := by
  intro s d rest b w hmem hlawful hc hq hdest hw
  have hmove : s.movedPastEngine.moveWord d = .moved (s.mem.write b.toNat w) := by
    cases hj : d.job with
    | fill pattern =>
      rw [hj] at hw
      obtain rfl : w = pattern := hw
      rw [State.moveWord_fill hj]
      exact State.moveTo_permitted hdest
    | copy source =>
      rw [hj] at hw
      obtain ⟨a, hsource, rfl⟩ := hw
      rw [State.moveWord_copy (s := s.movedPastEngine) hj hsource]
      exact State.moveTo_permitted hdest
  obtain ⟨hlock, hwindow, hrights, hcontrol, hreset, hdivider, hcount, hpending⟩ :=
    State.serveWord_frame (s := s.movedPastEngine) (d := d) (rest := rest)
  refine ⟨_, exec_copyWordMove_head hc hq, State.serveWord_position, fun a => ?_, hlock, hwindow, hrights, hcontrol, hreset,
    hdivider, hcount, hpending, fun hmore => ?_, fun hlast => ?_⟩
  · rw [State.serveWord_moved_mem hmove, Memory.read_write hmem]
  · rw [State.serveWord_more hmove hmore.ne]
    exact ⟨hlawful.settle_move (State.requesting_of_choice hc) hq, fun _ => rfl⟩
  · rw [State.serveWord_last hmove hlast]
    refine ⟨rfl, fun _ hp => State.port_onPort_of_ne _ hp _, ?_⟩
    rw [State.endDescriptor_port_self (d := { d with moved := d.moved + 1 }), ← hlast]
    rfl

/-- Settles O47: the source refused, or the destination where the source is not; either ends the descriptor. -/
theorem refusedWordsEndTheDescriptor : Obligations.RefusedWordsEndTheDescriptor := by
  intro s d rest why v dir hc hq hrefused
  have hmove : s.movedPastEngine.moveWord d = .refused why v dir := by
    rcases hrefused with ⟨source, hj, rfl, rfl, hcheck⟩ | ⟨hsource, rfl, rfl, hcheck⟩
    · exact State.moveWord_source_refused hj hcheck
    · exact State.moveWord_dest_refused hsource hcheck
  obtain ⟨hlock, hwindow, hrights, hcontrol, hreset, hdivider, hcount, hpending⟩ :=
    State.serveWord_frame (s := s.movedPastEngine) (d := d) (rest := rest)
  refine ⟨_, exec_copyWordMove_head hc hq, ?_, State.serveWord_position, ?_, ?_, hlock, hwindow, hrights, hcontrol, hreset,
    hdivider, hcount, hpending, ?_⟩
  all_goals rw [State.serveWord_refused hmove]
  · rfl
  · rfl
  · exact State.endDescriptor_others
  · exact State.endDescriptor_port_self

end Sys2Proof.Machine
end

section
/-! PROOF. The message commands as runs of their work (R128, R129, R133, R135): the reply of each check, what an accepted SEND delivers,
and what RECEIVE and MSG_STATUS report. -/

namespace Sys2Proof.Machine

variable {s : State} {p d : Port} {w : Word} {m : Message} {ms : List Message}

/-! ### The runs of the commands -/

section
variable {a : Reply} (h : s.CanCommand p)
include h

theorem exec_send_of (hw : sendWork p s = a) : exec (.send p) s = .next (a.state.post p 0x40 a.result a.words) :=
  exec_open h hw rfl rfl rfl rfl rfl

theorem exec_receive_of (hw : receiveWork p s = a) :
    exec (.receive p) s = .next (a.state.post p 0x41 a.result a.words) := exec_open h hw rfl rfl rfl rfl rfl

theorem exec_msgStatus_of (hw : msgStatusWork p s = a) :
    exec (.msgStatus p) s = .next (a.state.post p 0x42 a.result a.words) := exec_open h hw rfl rfl rfl rfl rfl

end

/-! ### The first argument word of SEND -/

/-- Bits 15:12 are the must-be-zero bit with the destination under it: bit 15 is their weight of 8 (Table 10-13). -/
theorem sendArg_mustBeZero : w.getLsbD 15 = decide (8 ≤ (w.extractLsb' 12 4).toNat) := by
  rw [getLsbD_eq, toNat_extract, decide_eq_decide]
  omega

/-- The destination is what bits 15:12 hold below bit 15 (Table 10-13). -/
theorem sendArg_destination : ((w.extractLsb' 12 3).setWidth 16).toNat = (w.extractLsb' 12 4).toNat % 8 := by
  rw [BitVec.toNat_setWidth, toNat_extract, toNat_extract]
  omega

/-- The tag is the low byte (Table 10-13). -/
theorem sendArg_tag : w.setWidth 8 = w.extractLsb' 0 8 := by
  apply BitVec.eq_of_toNat_eq
  rw [BitVec.toNat_setWidth, toNat_extract, Nat.pow_zero, Nat.div_one]

/-- SEND's fields are accepted (R128 check 1). -/
theorem sendArgs_of (hd : (w.extractLsb' 12 4).toNat = d.val) (hn : (w.extractLsb' 8 4).toNat ≤ 7) :
    sendArgs w = some { dest := d, length := (w.extractLsb' 8 4).toNat, tag := w.extractLsb' 0 8 } := by
  have hdest : ((w.extractLsb' 12 3).setWidth 16).toNat = d.val := by rw [sendArg_destination, hd]; omega
  have hzero : ¬w.getLsbD 15 = true := by rw [sendArg_mustBeZero, decide_eq_true_eq]; omega
  simp only [sendArgs, if_neg hzero, portField_of hdest, if_pos hn, sendArg_tag]

/-- SEND's fields are refused: bit 15 is set, the destination is no port, or the length is above 7 (R128 check 1). -/
theorem sendArgs_none (h : 4 ≤ (w.extractLsb' 12 4).toNat ∨ 7 < (w.extractLsb' 8 4).toNat) : sendArgs w = none := by
  unfold sendArgs
  by_cases hzero : w.getLsbD 15 = true
  · rw [if_pos hzero]
  · rw [if_neg hzero]
    rw [sendArg_mustBeZero, decide_eq_true_eq] at hzero
    rcases h with hd | hn
    · rw [portField_none (by rw [sendArg_destination]; omega)]
    · cases portField ((w.extractLsb' 12 3).setWidth 16) with
      | none => rfl
      | some d => exact if_neg (Nat.not_le.mpr hn)

/-! ### SEND -/

/-- The payload of a SEND is what ARG1 onwards hold (R129). -/
theorem State.payload_getElem? {k n : Nat} (hk : k < n) (h : k + 1 < 8) :
    (s.payload p n)[k]? = some (s.arg p ⟨k + 1, h⟩) := by
  have hargs : s.payload p n = ((List.finRange 7).map fun i => s.arg p i.succ).take n := rfl
  have hi : (List.finRange 7)[k]? = some ⟨k, Nat.succ_lt_succ_iff.mp h⟩ :=
    List.getElem?_eq_some_iff.mpr ⟨by rw [List.length_finRange]; omega, List.getElem_finRange _⟩
  rw [hargs, List.getElem?_take_of_lt hk, List.getElem?_map, hi]
  rfl

theorem State.payload_length {n : Nat} (hn : n ≤ 7) : (s.payload p n).length = n := by
  rw [State.payload, List.length_take]
  exact Nat.min_eq_left hn

/-- The message that SEND's fields and the sender spell (R128, R129). -/
def State.spelled (s : State) (p : Port) : Message :=
  { source := p, session := (s.port p).session, tag := (s.arg p 0).extractLsb' 0 8,
    payload := s.payload p ((s.arg p 0).extractLsb' 8 4).toNat }

theorem sendWork_badArg (h : 4 ≤ ((s.arg p 0).extractLsb' 12 4).toNat ∨ 7 < ((s.arg p 0).extractLsb' 8 4).toNat) :
    sendWork p s = { state := s, result := .badArg } := by
  rw [sendWork, sendArgs_none h]

section
variable (hd : ((s.arg p 0).extractLsb' 12 4).toNat = d.val) (hn : ((s.arg p 0).extractLsb' 8 4).toNat ≤ 7)
include hd hn

/-- With its fields accepted, SEND makes the three checks that are left, in order, and delivers (R128, R129). -/
theorem sendWork_of : sendWork p s =
    if s.attached d = false then { state := s, result := .destDown }
    else if (s.port d).quota ≤ (s.port d).inbox.length then { state := s, result := .full }
    else if s.freeSlots = 0 then { state := s, result := .noSlot }
    else { state := s.deliver d (s.spelled p), result := .ok } := by
  rw [sendWork, sendArgs_of hd hn]
  rfl

theorem sendWork_destDown (h : s.attached d = false) : sendWork p s = { state := s, result := .destDown } := by
  rw [sendWork_of hd hn, if_pos h]

section
variable (hup : s.attached d = true)
include hup

theorem sendWork_full (h : (s.port d).quota ≤ (s.port d).inbox.length) :
    sendWork p s = { state := s, result := .full } := by
  rw [sendWork_of hd hn, if_neg (by simp [hup]), if_pos h]

section
variable (hroom : (s.port d).inbox.length < (s.port d).quota)
include hroom

theorem sendWork_noSlot (h : s.freeSlots = 0) : sendWork p s = { state := s, result := .noSlot } := by
  rw [sendWork_of hd hn, if_neg (by simp [hup]), if_neg (Nat.not_le.mpr hroom), if_pos h]

theorem sendWork_delivers (h : s.freeSlots ≠ 0) :
    sendWork p s = { state := s.deliver d (s.spelled p), result := .ok } := by
  rw [sendWork_of hd hn, if_neg (by simp [hup]), if_neg (Nat.not_le.mpr hroom), if_neg h]

end

end

end

/-- Settles O51: each check of SEND in its turn, and the message that is delivered. -/
theorem sendDeliversOrIsRefused : Obligations.SendDeliversOrIsRefused := by
  intro s p h
  refine ⟨fun hbad => exec_send_of h (sendWork_badArg hbad), fun d hd hn => ⟨fun hdown => ?_, fun hup hfull => ?_,
    fun hup hroom hnone => ?_, fun hup hroom hfree => ?_⟩⟩
  · exact exec_send_of h (sendWork_destDown hd hn hdown)
  · exact exec_send_of h (sendWork_full hd hn hup hfull)
  · exact exec_send_of h (sendWork_noSlot hd hn hup hroom hnone)
  · have hlength : (s.spelled p).payload.length = ((s.arg p 0).extractLsb' 8 4).toNat := State.payload_length hn
    exact ⟨s.spelled p, rfl, rfl, rfl, hlength, fun k hk hlt => State.payload_getElem? (hlength ▸ hlt) hk,
      exec_send_of h (sendWork_delivers hd hn hup hroom hfree)⟩

/-! ### RECEIVE and MSG_STATUS -/

theorem receiveWork_empty (h : (s.port p).inbox = []) : receiveWork p s = { state := s, result := .empty } := by
  rw [receiveWork, h]

theorem receiveWork_oldest (h : (s.port p).inbox = m :: ms) :
    receiveWork p s = { state := s.onPort p fun r => { r with inbox := ms }, result := .ok, words := m.words ms.length } := by
  rw [receiveWork, h]

/-- Words read one after another, with 0 beyond the last, are the words followed by zeros. -/
theorem map_range_getD_zero (ws : List Word) :
    ∀ n, ws.length ≤ n → (List.range n).map (ws.getD · 0) = ws ++ List.replicate (n - ws.length) 0 := by
  induction ws with
  | nil => intro n _; simp
  | cons w ws ih =>
    intro n hn
    obtain ⟨k, rfl⟩ := Nat.exists_eq_add_one_of_ne_zero (Nat.ne_zero_of_lt hn)
    rw [List.range_succ_eq_map, List.length_cons, Nat.add_sub_add_right, List.cons_append,
      ← ih k (Nat.le_of_succ_le_succ hn)]
    simp

/-- The result words of RECEIVE: the payload is shown whole, and 0000H beyond its length (R133). -/
theorem Message.words_eq (h : m.payload.length ≤ 7) (n : Nat) : m.words n =
    m.summary :: m.session.setWidth 16 :: (m.payload ++ List.replicate (7 - m.payload.length) 0)
      ++ [BitVec.ofNat 16 n] := by
  rw [← map_range_getD_zero m.payload 7 h]
  rfl

/-- Settles O52: an empty queue is reported, the oldest message returned whole, and the three numbers reported. -/
theorem receiveAndMsgStatus : Obligations.ReceiveAndMsgStatus := by
  intro s p h
  refine ⟨fun hnone => exec_receive_of h (receiveWork_empty hnone), fun m ms hq hshort => ?_, exec_msgStatus_of h rfl⟩
  refine ⟨m.summary, m.words ms.length, exec_receive_of h (receiveWork_oldest hq), m.words_eq hshort _, ?_⟩
  rw [Message.summary_toNat, Nat.mod_eq_of_lt (Nat.lt_of_le_of_lt hshort (by decide))]

end Sys2Proof.Machine
end

section
/-! PROOF. What a port has of the lock table and of the copy engine: the operations on a lock record bring no new port to it but the one
that ACQUIRE names (R9, R11), and a session end leaves the port nothing (R27, R28, R121). -/

namespace Sys2Proof.Machine

variable {s t : State} {r r' : LockRec} {p q : Port} {l : LockNo} {c : Instr}

/-! ### The ports of a lock record -/

/-- Port `q` holds the lock or waits for it. -/
def LockRec.Involves (r : LockRec) (q : Port) : Prop := r.heldBy q = true ∨ q ∈ r.queue.map Waiter.port

/-- No port that is new to the lock holds it or waits for it. -/
def LockRec.NoneJoin (r r' : LockRec) : Prop := ∀ q, r'.Involves q → r.Involves q

theorem LockRec.not_involves_iff : ¬ r.Involves q ↔ r.heldBy q = false ∧ ∀ e ∈ r.queue, e.port ≠ q := by
  simp [LockRec.Involves]

theorem LockRec.NoneJoin.refl (r : LockRec) : r.NoneJoin r := fun _ h => h

theorem LockRec.NoneJoin.trans {d : LockRec} (h : r.NoneJoin d) (k : d.NoneJoin r') : r.NoneJoin r' := fun q hq => h q (k q hq)

/-- Holders and waiting ports that are among the old ones. -/
theorem LockRec.NoneJoin.of_le (hh : ∀ q, r'.heldBy q = true → r.heldBy q = true)
    (hq : r'.queue.map Waiter.port ⊆ r.queue.map Waiter.port) : r.NoneJoin r' := fun q h => h.imp (hh q) (@hq q)

/-- A grant brings no other port to the lock than the ones it names (R9). -/
theorem LockRec.involves_grant {m : ReqMode} {ps : List Port} (h : (r.grant m ps).Involves q) : r.Involves q ∨ q ∈ ps := by
  unfold LockRec.Involves at h ⊢
  rw [LockRec.heldBy_grant] at h
  simp only [LockRec.grant, Bool.or_eq_true, List.contains_iff_mem] at h
  tauto

theorem LockRec.reevaluate_noneJoin (r : LockRec) : r.NoneJoin r.reevaluate.record := by
  obtain ⟨hqueue, hholders⟩ := r.reevaluate_members
  rintro q (h | h)
  · exact (hholders q h).imp id fun ⟨e, he, hp⟩ => hp ▸ List.mem_map_of_mem he
  · exact .inr (List.map_subset _ hqueue h)

/-- An operation that ends in a re-evaluation. -/
theorem LockRec.NoneJoin.reevaluate {d : LockRec} (h : r.NoneJoin d) : r.NoneJoin d.reevaluate.record :=
  h.trans d.reevaluate_noneJoin

theorem LockRec.freed_noneJoin (r : LockRec) : r.NoneJoin r.freed :=
  .of_le (fun q h => by simp [LockRec.heldBy, LockRec.freed] at h) (List.Subset.refl _)

theorem LockRec.dropWaiter_noneJoin (r : LockRec) (p : Port) : r.NoneJoin (r.dropWaiter p) :=
  .of_le (fun _ h => h) (List.filter_sublist.map _).subset

theorem LockRec.dropHolder_noneJoin (r : LockRec) (p : Port) : r.NoneJoin (r.dropHolder p) := by
  refine .of_le (fun q h => ?_) (by simp)
  unfold LockRec.dropHolder at h
  split at h
  · simp [LockRec.heldBy] at h
  · simp only [LockRec.heldBy, PortSet.has_erase, Bool.and_eq_true] at h ⊢
    exact h.1

theorem LockRec.countWaits_noneJoin (r : LockRec) : r.NoneJoin r.countWaits := by
  refine .of_le (fun _ h => h) ?_
  have hport : (Waiter.port ∘ Waiter.counted) = Waiter.port := rfl
  rw [LockRec.countWaits, List.map_map, hport]
  exact (List.filter_sublist.map _).subset

theorem LockRec.countLease_noneJoin (r : LockRec) : r.NoneJoin r.countLease := by
  unfold LockRec.countLease
  split
  · exact r.freed_noneJoin
  · exact .refl r

theorem LockRec.renewed_noneJoin (r : LockRec) : r.NoneJoin r.renewed := by
  unfold LockRec.renewed
  split <;> exact .refl r

theorem LockRec.broken_noneJoin (r : LockRec) (flush : Bool) : r.NoneJoin (r.broken flush).record := by
  cases flush with
  | false => exact r.freed_noneJoin.reevaluate
  | true =>
    have hempty : r.freed.NoneJoin { r.freed with queue := [] } := .of_le (fun _ h => h) (List.nil_subset _)
    exact (r.freed_noneJoin.trans hempty).reevaluate

theorem LockRec.tick_noneJoin (r : LockRec) : r.NoneJoin r.tick.record :=
  (r.countWaits_noneJoin.trans r.countWaits.countLease_noneJoin).reevaluate

theorem LockRec.waitExpiry_noneJoin (r : LockRec) (p : Port) : r.NoneJoin (r.waitExpiry p).record := by
  unfold LockRec.waitExpiry
  split
  · exact (r.dropWaiter_noneJoin p).reevaluate
  · exact .refl r

theorem LockRec.leaseExpiry_noneJoin (r : LockRec) : r.NoneJoin r.leaseExpiry.record := by
  unfold LockRec.leaseExpiry
  split
  · exact r.freed_noneJoin.reevaluate
  · exact .refl r

theorem LockRec.endSession_noneJoin (r : LockRec) (p : Port) : r.NoneJoin (r.endSession p).record := by
  unfold LockRec.endSession
  split
  · exact ((r.dropWaiter_noneJoin p).trans ((r.dropWaiter p).dropHolder_noneJoin p)).reevaluate
  · split
    · exact (r.dropWaiter_noneJoin p).reevaluate
    · exact .refl r

/-- The queueing of an entry brings its own port to the lock, and no other (R11). -/
theorem LockRec.involves_enqueue {e : Waiter} (h : (r.enqueue e).record.Involves q) : r.Involves q ∨ q = e.port := by
  have := LockRec.reevaluate_noneJoin _ q h
  simp only [LockRec.Involves, LockRec.heldBy, List.map_append, List.mem_append, List.map_cons, List.map_nil,
    List.mem_singleton] at this ⊢
  tauto

/-! ### What a port has of the lock table and the copy engine -/

/-- Port `q` holds a lock, waits for one, or has a descriptor in the copy queue. -/
def State.Uses (s : State) (q : Port) : Prop :=
  (∃ l, (s.lock l).Involves q) ∨ q ∈ s.engine.queue.map Descriptor.requester

/-- A port that is not ATTACHED is bare exactly when its record is, and it uses neither the lock table nor the engine (R153). -/
theorem State.absentBare_iff : s.AbsentBare ↔ ∀ q, s.attached q = false → (s.port q).Bare ∧ ¬ s.Uses q := by
  refine forall_congr' fun q => imp_congr_right fun _ => and_congr_right fun _ => ?_
  simp only [State.Uses, not_or, not_exists, LockRec.not_involves_iff, List.mem_map, not_and]

/-- A change of a port's record is no use of anything. -/
theorem State.uses_onPort {f : PortState → PortState} : (s.onPort p f).Uses q ↔ s.Uses q := Iff.rfl

/-- The engine's step keeps the requesters of the queue (Table 5-2). -/
@[simp] theorem Engine.requesters_settle (e : Engine) :
    e.settle.queue.map Descriptor.requester = e.queue.map Descriptor.requester :=
  e.settle_map Descriptor.requester fun _ => rfl

/-- A port that has ended its session uses nothing any more (R27, R28, R121). -/
theorem State.not_uses_endSession (m : PortMode) : ¬ (s.endSession p m).Uses p := by
  rintro (⟨l, h⟩ | h)
  · rw [State.endSession_lock] at h
    obtain ⟨hheld, hqueued⟩ := (s.lock l).endSession_gone p
    refine LockRec.not_involves_iff.mpr ⟨hheld, ?_⟩ h
    simpa [LockRec.queuedBy] using hqueued
  · change p ∈ (Engine.settle _).queue.map Descriptor.requester at h
    rw [Engine.requesters_settle] at h
    obtain ⟨d, hd, rfl⟩ := List.mem_map.mp h
    simp at hd

/-- No port uses more after another's session end (R28). -/
theorem State.uses_of_endSession {m : PortMode} (h : (s.endSession p m).Uses q) : s.Uses q := by
  rcases h with ⟨l, h⟩ | h
  · rw [State.endSession_lock] at h
    exact .inl ⟨l, LockRec.endSession_noneJoin _ p q h⟩
  · change q ∈ (Engine.settle _).queue.map Descriptor.requester at h
    rw [Engine.requesters_settle] at h
    exact .inr ((List.filter_sublist.map _).subset h)

end Sys2Proof.Machine
end

section
/-! PROOF. What an event can do to the sessions, and the laws that follow from it; the changes of the state that open and end no session,
and the end of one. -/

namespace Sys2Proof.Machine

variable {s t : State} {r r' : PortState} {p q : Port} {o : Option Port} {l : LockNo} {c : Instr}

/-! ### What an event can do to the sessions -/

/-- An event that leaves port `q` in its session, or without one: it brings a port without a session nothing, no message, and no
peer bit. -/
structure PortState.SessionKept (q : Port) (r r' : PortState) : Prop where
  mode : r'.mode = r.mode
  session : r'.session = r.session
  prst : r'.prstAsserted = r.prstAsserted
  bare : r.mode ≠ .attached → r.Bare → r'.Bare
  inbox : r'.inbox ⊆ r.inbox
  peerUp : r'.peerUp.has q = true → r.peerUp.has q = true
  peerDown : r'.peerDown.has q = true → r.peerDown.has q = true

/-- Everything an event can do to the session of port `q`, where `o` is the port whose cycle it takes, if any: leave it, open it by
that port's own cycle (R147), or end it, with nothing of the port left at any block (R153). -/
inductive State.SessionChange (s t : State) (o : Option Port) (q : Port) : Prop where
  | same (mode : (t.port q).mode = (s.port q).mode) (session : (t.port q).session = (s.port q).session)
      (bare : s.attached q = false → ¬ s.Uses q → (s.port q).Bare → (t.port q).Bare)
  | opened (own : o = some q) (mode : (t.port q).mode = .attached)
      (session : (t.port q).session = nextSession (s.port q).session)
  | ended (attached : s.attached q = true) (mode : (t.port q).mode = .detached) (bare : (t.port q).Bare) (gone : ¬ t.Uses q)

/-- Everything an event but a reset can do to the sessions, and to what hangs on them: the lock table and the copy engine serve
ATTACHED ports, a message carries the session of an ATTACHED port (R124), and no port is told of itself (R160). -/
structure State.SessionStep (s t : State) (o : Option Port) : Prop where
  change : ∀ q, s.SessionChange t o q
  uses : ∀ q, t.Uses q → s.attached q = true ∨ s.Uses q
  prst : ∀ q, (t.port q).prstAsserted = (s.port q).prstAsserted
  reset : t.resetAsserted = s.resetAsserted
  control : t.control = s.control
  inbox : ∀ q, ∀ m ∈ (t.port q).inbox, m ∈ (s.port q).inbox ∨ ∃ k, s.attached k = true ∧ m.session = (s.port k).session
  peerUp : ∀ q, (t.port q).peerUp.has q = true → (s.port q).peerUp.has q = true
  peerDown : ∀ q, (t.port q).peerDown.has q = true → (s.port q).peerDown.has q = true

/-! ### The laws -/

theorem State.attached_eq_false_iff : s.attached q = false ↔ (s.port q).mode ≠ .attached := by simp [State.attached]

/-- The session number after an ATTACH is not 0 (R147). -/
theorem nextSession_ne_zero (n : Byte) : nextSession n ≠ 0 := by
  unfold nextSession
  split
  · decide
  · next h =>
    intro h0
    exact h (by bv_omega)

/-- The sessions' numbers are kept not 0 (R147, R124). -/
theorem State.SessionStep.sessionLaw (h : s.SessionStep t o) (hs : s.SessionLaw) : t.SessionLaw := by
  obtain ⟨hnumber, hinbox⟩ := hs
  refine ⟨fun q hq => ?_, fun q m hm => ?_⟩
  · cases h.change q with
    | same mode session =>
      rw [session]
      exact hnumber q (State.attached_iff.mpr (mode ▸ State.attached_iff.mp hq))
    | opened _ _ session => rw [session]; exact nextSession_ne_zero _
    | ended _ mode => rw [State.attached_iff, mode] at hq; cases hq
  · rcases h.inbox q m hm with hold | ⟨k, hk, hsession⟩
    · exact hinbox q m hold
    · rw [hsession]
      exact hnumber k hk

/-- Peer sets that hold no own bit that was not there before (R160). -/
theorem State.PeerLaw.of_imp (hs : s.PeerLaw) (hup : ∀ q, (t.port q).peerUp.has q = true → (s.port q).peerUp.has q = true)
    (hdown : ∀ q, (t.port q).peerDown.has q = true → (s.port q).peerDown.has q = true) : t.PeerLaw := fun q =>
  ⟨Bool.eq_false_iff.mpr fun h => by simpa [(hs q).1] using hup q h,
    Bool.eq_false_iff.mpr fun h => by simpa [(hs q).2] using hdown q h⟩

theorem State.SessionStep.peerLaw (h : s.SessionStep t o) (hs : s.PeerLaw) : t.PeerLaw := hs.of_imp h.peerUp h.peerDown

/-- A port is kept DOWN exactly while a reset of it is asserted, if the cycle is of a port that is not DOWN (R141). -/
theorem State.SessionStep.resetLaw (h : s.SessionStep t o) (hup : ∀ p, o = some p → (s.port p).mode ≠ .down)
    (hs : s.ResetLaw) : t.ResetLaw := by
  obtain ⟨hdown, hcontrol⟩ := hs
  refine ⟨fun q => ?_, by rw [h.control, h.reset]; exact hcontrol⟩
  rw [h.reset, h.prst q, ← hdown q]
  cases h.change q with
  | same mode => rw [mode]
  | opened own mode => simp [mode, hup q own]
  | ended attached mode => simp [mode, State.attached_iff.mp attached]

/-- A port without a session is kept without anything at any block (R153). -/
theorem State.SessionStep.absentBare (h : s.SessionStep t o) (hs : s.AbsentBare) : t.AbsentBare := by
  rw [State.absentBare_iff] at hs ⊢
  intro q hq
  cases h.change q with
  | same mode _ bare =>
    have hbefore : s.attached q = false := by rwa [State.attached, ← mode]
    obtain ⟨hbare, huses⟩ := hs q hbefore
    exact ⟨bare hbefore huses hbare, fun hu => (h.uses q hu).elim (by simp [hbefore]) huses⟩
  | opened _ mode => rw [State.attached_eq_false_iff, mode] at hq; exact absurd rfl hq
  | ended _ _ bare gone => exact ⟨bare, gone⟩

/-! ### Changes of one port's record -/

theorem PortState.SessionKept.refl (q : Port) (r : PortState) : r.SessionKept q r :=
  ⟨rfl, rfl, rfl, fun _ => id, List.Subset.refl _, id, id⟩

/-- A change of an ATTACHED port's record that keeps its session and brings it no message and no peer bit. -/
theorem PortState.SessionKept.of_attached (ha : r.mode = .attached) (mode : r'.mode = r.mode)
    (session : r'.session = r.session) (prst : r'.prstAsserted = r.prstAsserted) (inbox : r'.inbox ⊆ r.inbox)
    (peers : r'.peerUp = r.peerUp ∧ r'.peerDown = r.peerDown ∨ r'.peerUp = 0 ∧ r'.peerDown = 0) : r.SessionKept q r' := by
  refine ⟨mode, session, prst, fun hn => absurd ha hn, inbox, fun h => ?_, fun h => ?_⟩ <;>
    rcases peers with ⟨hup, hdown⟩ | ⟨hup, hdown⟩
  · rwa [← hup]
  · simp [hup] at h
  · rwa [← hdown]
  · simp [hdown] at h

/-- A change of a port's record outside the session unit, the event unit, the receive queue, the completion list and the fault
record. -/
structure PortState.Quiet (r r' : PortState) : Prop where
  mode : r'.mode = r.mode
  session : r'.session = r.session
  prst : r'.prstAsserted = r.prstAsserted
  granted : r'.granted = r.granted
  revoked : r'.revoked = r.revoked
  waitEnd : r'.waitEnd = r.waitEnd
  peerUp : r'.peerUp = r.peerUp
  peerDown : r'.peerDown = r.peerDown
  enables : r'.enables = r.enables
  fault : r'.fault = r.fault
  inbox : r'.inbox = r.inbox
  completions : r'.completions = r.completions

theorem PortState.Quiet.bare (h : r.Quiet r') (hr : r.Bare) : r'.Bare := by
  rw [PortState.Bare, h.granted, h.revoked, h.waitEnd, h.peerUp, h.peerDown, h.enables, h.fault, h.inbox, h.completions]
  exact hr

theorem PortState.Quiet.kept (h : r.Quiet r') : r.SessionKept q r' :=
  ⟨h.mode, h.session, h.prst, fun _ => h.bare, by rw [h.inbox]; exact List.Subset.refl _, by rw [h.peerUp]; exact id,
    by rw [h.peerDown]; exact id⟩

theorem PortState.Quiet.of_busOnly {f : PortState → PortState} (hf : PortState.BusOnly f) (r : PortState) : r.Quiet (f r) := by
  rw [show f r = _ from hf r]
  exact ⟨rfl, rfl, rfl, rfl, rfl, rfl, rfl, rfl, rfl, rfl, rfl, rfl⟩

/-- The lock bits an event hands out are stored by ATTACHED ports only (R159). -/
theorem PortState.SessionKept.addLockBits (r : PortState) (a b d : LockSet) : r.SessionKept q (r.addLockBits a b d) := by
  unfold PortState.addLockBits
  split
  · next ha => exact .of_attached ha rfl rfl rfl (List.Subset.refl _) (.inl ⟨rfl, rfl⟩)
  · exact .refl q r

/-! ### Events that open and end no session -/

theorem State.SessionStep.of_kept (port : ∀ q, (s.port q).SessionKept q (t.port q))
    (uses : ∀ q, t.Uses q → s.attached q = true ∨ s.Uses q) (reset : t.resetAsserted = s.resetAsserted)
    (control : t.control = s.control) : s.SessionStep t o where
  change q := .same (port q).mode (port q).session fun hn _ => (port q).bare (State.attached_eq_false_iff.mp hn)
  uses := uses
  prst q := (port q).prst
  reset := reset
  control := control
  inbox q _ hm := .inl ((port q).inbox hm)
  peerUp q := (port q).peerUp
  peerDown q := (port q).peerDown

/-- An event outside the ports, the locks and the copy engine. -/
theorem State.SessionStep.of_records (hp : t.ports = s.ports := by rfl) (hl : t.locks = s.locks := by rfl)
    (he : t.engine = s.engine := by rfl) (hr : t.resetAsserted = s.resetAsserted := by rfl)
    (hc : t.control = s.control := by rfl) : s.SessionStep t o := by
  refine .of_kept (fun q => ?_) (fun q hq => .inr ?_) hr hc
  · rw [show t.port q = s.port q from congrArg (fun v : Vector PortState 4 => v[q]) hp]
    exact .refl q _
  · unfold State.Uses State.lock at hq
    rwa [hl, he] at hq

theorem State.SessionStep.refl (s : State) : s.SessionStep s o := .of_records

/-- The change of something else than the ports, the locks and the engine, before an event. -/
theorem State.SessionStep.after {u : State} {mem : Memory} {position : Requester} {count : Nat}
    (h : ({ s with mem := mem, position := position, count := count } : State).SessionStep u o) : s.SessionStep u o := by
  refine ⟨fun q => ?_, h.uses, h.prst, h.reset, h.control, h.inbox, h.peerUp, h.peerDown⟩
  cases h.change q with
  | same mode session bare => exact .same mode session bare
  | opened own mode session => exact .opened own mode session
  | ended attached mode bare gone => exact .ended attached mode bare gone

/-- A change of one port's record that keeps its session. -/
theorem State.SessionStep.onPort {f : PortState → PortState} (h : (s.port p).SessionKept p (f (s.port p))) :
    s.SessionStep (s.onPort p f) o := by
  refine .of_kept (fun q => ?_) (fun q hq => .inr hq) rfl rfl
  rw [State.port_onPort]
  split
  · next hq => subst hq; exact h
  · exact .refl q _

/-- A change of the record of an ATTACHED port that keeps its session and brings it no message and no peer bit. -/
theorem State.SessionStep.onAttached {f : PortState → PortState} (ha : s.attached p = true)
    (hf : ∀ r, (f r).mode = r.mode ∧ (f r).session = r.session ∧ (f r).prstAsserted = r.prstAsserted := by
      exact fun _ => ⟨rfl, rfl, rfl⟩)
    (inbox : (f (s.port p)).inbox ⊆ (s.port p).inbox := by exact List.Subset.refl _)
    (peers : ∀ r, (f r).peerUp = r.peerUp ∧ (f r).peerDown = r.peerDown ∨ (f r).peerUp = 0 ∧ (f r).peerDown = 0 := by
      exact fun _ => .inl ⟨rfl, rfl⟩) : s.SessionStep (s.onPort p f) o := by
  obtain ⟨mode, session, prst⟩ := hf (s.port p)
  exact .onPort (.of_attached (State.attached_iff.mp ha) mode session prst inbox (peers _))

/-- A change of a port's record that comes after an event and touches nothing of a session. -/
theorem State.SessionStep.then_quiet {f : PortState → PortState} (h : s.SessionStep t o)
    (hf : ∀ r, PortState.Quiet r (f r) := by
      exact fun _ => ⟨rfl, rfl, rfl, rfl, rfl, rfl, rfl, rfl, rfl, rfl, rfl, rfl⟩) : s.SessionStep (t.onPort q f) o := by
  have hport (k : Port) : (t.port k).Quiet ((t.onPort q f).port k) := by
    rw [State.port_onPort]
    split
    · exact hf _
    · exact ⟨rfl, rfl, rfl, rfl, rfl, rfl, rfl, rfl, rfl, rfl, rfl, rfl⟩
  refine ⟨fun k => ?_, fun k hk => h.uses k hk, fun k => (hport k).prst.trans (h.prst k), h.reset, h.control,
    fun k m hm => h.inbox k m ((hport k).inbox ▸ hm), fun k hk => h.peerUp k ((hport k).peerUp ▸ hk),
    fun k hk => h.peerDown k ((hport k).peerDown ▸ hk)⟩
  cases h.change k with
  | same mode session bare =>
    exact .same ((hport k).mode.trans mode) ((hport k).session.trans session) fun hn hu hb => (hport k).bare (bare hn hu hb)
  | opened own mode session => exact .opened own ((hport k).mode.trans mode) ((hport k).session.trans session)
  | ended attached mode bare gone => exact .ended attached ((hport k).mode.trans mode) ((hport k).bare bare) gone

/-- A change of a port's record that touches nothing of a session. -/
theorem State.SessionStep.quiet {f : PortState → PortState}
    (hf : ∀ r, PortState.Quiet r (f r) := by
      exact fun _ => ⟨rfl, rfl, rfl, rfl, rfl, rfl, rfl, rfl, rfl, rfl, rfl, rfl⟩) : s.SessionStep (s.onPort q f) o :=
  (State.SessionStep.refl s).then_quiet hf

theorem State.SessionStep.post {code : Byte} {res : Result} {ws : List Word} (h : s.SessionStep t o) :
    s.SessionStep (t.post p code res ws) o :=
  h.then_quiet

/-- A lock-table event that brings no port to a lock but ATTACHED ones. -/
theorem State.SessionStep.lockEvent {f : LockNo → LockRec → LockChange}
    (h : ∀ l q, (f l (s.lock l)).record.Involves q → s.attached q = true ∨ (s.lock l).Involves q) :
    s.SessionStep (s.lockEvent f) o := by
  refine .of_kept (fun q => ?_) ?_ rfl rfl
  · rw [State.port_lockEvent]
    exact .addLockBits ..
  · rintro q (⟨l, hl⟩ | he)
    · rw [State.lock_lockEvent] at hl
      exact (h l q hl).imp id fun hi => .inl ⟨l, hi⟩
    · exact .inr (.inr he)

theorem State.SessionStep.onLock {g : LockRec → LockChange}
    (h : ∀ q, (g (s.lock l)).record.Involves q → s.attached q = true ∨ (s.lock l).Involves q) :
    s.SessionStep (s.onLock l g) o := by
  refine .lockEvent fun k q => ?_
  split
  · next hk => subst hk; exact h q
  · exact .inr

theorem State.SessionStep.onLock_noneJoin {g : LockRec → LockChange} (h : (s.lock l).NoneJoin (g (s.lock l)).record) :
    s.SessionStep (s.onLock l g) o := .onLock fun q hq => .inr (h q hq)

/-- A change of the engine that brings no port to it but ATTACHED ones. -/
theorem State.SessionStep.setEngine {e : Engine}
    (h : ∀ q ∈ e.queue.map Descriptor.requester, s.attached q = true ∨ q ∈ s.engine.queue.map Descriptor.requester) :
    s.SessionStep (s.setEngine e) o := by
  refine .of_kept (fun q => .refl q _) ?_ rfl rfl
  rintro q (hl | he)
  · exact .inr (.inl hl)
  · exact (h q he).imp id .inr

/-- A descriptor ends: its requester, which used the engine, gets the record (R112). -/
theorem State.SessionStep.endDescriptor {rest : List Descriptor} {d : Descriptor} {st : CopyStatus}
    (hrest : rest.map Descriptor.requester ⊆ s.engine.queue.map Descriptor.requester)
    (hd : d.requester ∈ s.engine.queue.map Descriptor.requester) : s.SessionStep (s.endDescriptor rest d st) o := by
  have hset : s.SessionStep (s.setEngine (Engine.settle { s.engine with queue := rest })) none :=
    .setEngine fun q hq => .inr (hrest (by rwa [Engine.requesters_settle] at hq))
  have hport (q : Port) : (s.endDescriptor rest d st).port q = if q = d.requester then
      { s.port q with completions := (s.port q).completions ++ [d.record st] } else s.port q := by
    rw [State.endDescriptor, State.addCompletion, State.port_onPort, State.port_setEngine]
  have hsame (q : Port) : (s.endDescriptor rest d st).port q =
      { s.port q with completions := ((s.endDescriptor rest d st).port q).completions } := by
    rw [hport]
    split <;> rfl
  refine ⟨fun q => .same (by rw [hsame]) (by rw [hsame]) fun _ hu hb => ?_, fun q hq => hset.uses q hq, fun q => by rw [hsame],
    rfl, rfl, fun q m hm => .inl (by rwa [hsame] at hm), fun q => by rw [hsame]; exact id, fun q => by rw [hsame]; exact id⟩
  have hne : q ≠ d.requester := fun he => hu (.inr (he ▸ hd))
  rw [hport, if_neg hne]
  exact hb

/-! ### Session ends and openings -/

/-- Another port's record after a session end: in its own session, with a bit for the port whose session has ended (R154). -/
theorem State.endSession_other_kept {m : PortMode} (h : q ≠ p) : (s.port q).SessionKept q ((s.endSession p m).port q) := by
  rw [State.endSession_port_other _ _ _ _ h]
  split
  · next ha => exact ⟨rfl, rfl, rfl, fun hn => absurd ha hn, List.Subset.refl _, id, fun hb => by simpa [h] using hb⟩
  · exact .refl q _

theorem PortState.endSession_bare (r : PortState) (m : PortMode) : (r.endSession m).Bare :=
  ⟨rfl, rfl, rfl, rfl, rfl, rfl, rfl, rfl, rfl⟩

/-- DETACH and EVICT end the session of an ATTACHED port (R150, R151, R153). -/
theorem State.SessionStep.endSession (ha : s.attached p = true) : s.SessionStep (s.endSession p .detached) o := by
  have hself : (s.endSession p .detached).port p = (s.port p).endSession .detached :=
    State.endSession_port_self _ _ _ (by decide)
  have hcases (q : Port) : q = p ∨ (s.port q).SessionKept q ((s.endSession p .detached).port q) :=
    (eq_or_ne q p).imp id State.endSession_other_kept
  refine ⟨fun q => ?_, fun q hq => .inr (State.uses_of_endSession hq), fun q => ?_, rfl, rfl, fun q m hm => ?_, fun q hq => ?_,
    fun q hq => ?_⟩ <;> rcases hcases q with rfl | hk
  · exact .ended ha (by rw [hself]; rfl) (by rw [hself]; exact PortState.endSession_bare ..) (State.not_uses_endSession _)
  · exact .same hk.mode hk.session fun hn _ => hk.bare (State.attached_eq_false_iff.mp hn)
  · rw [hself]; rfl
  · exact hk.prst
  · rw [hself] at hm; cases hm
  · exact .inl (hk.inbox hm)
  · rw [hself] at hq; exact absurd hq (by simp [PortState.endSession])
  · exact hk.peerUp hq
  · rw [hself] at hq; exact absurd hq (by simp [PortState.endSession])
  · exact hk.peerDown hq

end Sys2Proof.Machine
end

section
/-! PROOF. The taking of every bus cycle, and every other event of a step, as a session step or a reset. -/

namespace Sys2Proof.Machine

variable {s t : State} {p q : Port} {o : Option Port} {l : LockNo} {c : Instr}

/-! ### Sessions -/

/-- The record of port `q` after port `p`'s session has been opened and announced (R147, R154). -/
theorem State.port_open_announceUp : ((s.onPort p fun r => { r with mode := .attached, session := nextSession r.session }).announceUp
      p).port q =
    if q = p then { s.port p with mode := .attached, session := nextSession (s.port p).session }
    else if s.attached q then { s.port q with peerUp := (s.port q).peerUp.insert p } else s.port q := by
  rw [State.announceUp, State.port_mapPorts, State.port_onPort]
  by_cases hq : q = p
  · simp [hq]
  · simp [hq, State.attached]

/-- Every other port keeps its session while port `p`'s is opened and announced to it (R154). -/
theorem State.open_announceUp_kept (h : q ≠ p) : (s.port q).SessionKept q (((s.onPort p fun r =>
      { r with mode := .attached, session := nextSession r.session }).announceUp p).port q) := by
  rw [State.port_open_announceUp, if_neg h]
  split
  · next ha =>
    exact ⟨rfl, rfl, rfl, fun hn => absurd (State.attached_iff.mp ha) hn, List.Subset.refl _,
      fun hb => by simpa [h] using hb, id⟩
  · exact .refl q _

/-- ATTACH opens the session of its own port, and no other (R147, R148). -/
theorem State.attach_session : s.SessionStep (s.attach p) (some p) := by
  unfold State.attach
  split
  · exact (State.SessionStep.refl s).post
  · generalize hu : (s.onPort p fun r => { r with mode := .attached, session := nextSession r.session }).announceUp p = u
    have hself : u.port p = { s.port p with mode := .attached, session := nextSession (s.port p).session } := by
      rw [← hu, State.port_open_announceUp, if_pos rfl]
    have hcases (q : Port) : q = p ∨ (s.port q).SessionKept q (u.port q) :=
      (eq_or_ne q p).imp id fun hq => hu ▸ State.open_announceUp_kept hq
    refine State.SessionStep.post ⟨fun q => ?_, fun q hq => .inr (by subst hu; exact hq), fun q => ?_, by subst hu; rfl,
      by subst hu; rfl, fun q m hm => .inl ?_, fun q hq => ?_, fun q hq => ?_⟩ <;> rcases hcases q with rfl | hk
    · exact .opened rfl (by rw [hself]) (by rw [hself])
    · exact .same hk.mode hk.session fun hn _ => hk.bare (State.attached_eq_false_iff.mp hn)
    · rw [hself]
    · exact hk.prst
    · rwa [hself] at hm
    · exact hk.inbox hm
    · rwa [hself] at hq
    · exact hk.peerUp hq
    · rwa [hself] at hq
    · exact hk.peerDown hq

theorem evictWork_session : s.SessionStep (evictWork p s).state o := by
  unfold evictWork
  split
  · exact .refl s
  · split
    · exact .refl s
    · next ha => exact .endSession (by simpa using ha)

/-! ### The work of the lock commands -/

theorem State.SessionStep.withLock {k : LockNo → Reply} (hk : ∀ l, s.SessionStep (k l).state o) :
    s.SessionStep (s.withLock p k).state o := by
  unfold State.withLock
  split
  · exact .refl s
  · exact hk _

/-- ACQUIRE brings the issuing port to the lock, as a holder or in the queue, and no other port (R9, R11). -/
theorem acquireWork_session (ha : s.attached p = true) : s.SessionStep (acquireWork p s).state o := by
  have hgrant (l : LockNo) (m : ReqMode) (q : Port) (h : ((s.lock l).grant m [p]).Involves q) :
      s.attached q = true ∨ (s.lock l).Involves q := by
    rcases LockRec.involves_grant h with h | h
    · exact .inr h
    · rw [List.mem_singleton.mp h]
      exact .inl ha
  have henqueue (l : LockNo) (m : ReqMode) (w : Option Nat) (q : Port)
      (h : ((s.lock l).enqueue { port := p, mode := m, wait := w }).record.Involves q) :
      s.attached q = true ∨ (s.lock l).Involves q := by
    rcases LockRec.involves_enqueue h with h | rfl
    · exact .inr h
    · exact .inl ha
  refine .withLock fun l => ?_
  unfold State.decideAcquire
  repeat' split
  all_goals with_reducible first | exact .refl s | exact .onLock (hgrant l _) | exact .onLock (henqueue l _ _)

theorem releaseWork_session : s.SessionStep (releaseWork p s).state o := by
  refine .withLock fun l => ?_
  split
  · with_reducible refine .onLock_noneJoin ?_
    exact (LockRec.dropHolder_noneJoin _ p).reevaluate
  · exact .refl s

theorem renewWork_session : s.SessionStep (renewWork p s).state o := by
  refine .withLock fun l => ?_
  split
  · with_reducible refine .onLock_noneJoin ?_
    exact LockRec.renewed_noneJoin _
  · exact .refl s

theorem withdrawWork_session : s.SessionStep (withdrawWork p s).state o := by
  refine .withLock fun l => ?_
  split
  · with_reducible refine .onLock_noneJoin ?_
    exact (LockRec.dropWaiter_noneJoin _ p).reevaluate
  · exact .refl s

theorem setLockWork_session : s.SessionStep (setLockWork p s).state o := by
  refine .withLock fun l => ?_
  split
  · exact .refl s
  · split
    · exact .refl s
    · with_reducible refine .onLock_noneJoin ?_
      exact .refl _

theorem breakWork_session : s.SessionStep (breakWork p s).state o := by
  refine .withLock fun l => ?_
  split
  · exact .refl s
  · with_reducible refine .onLock_noneJoin ?_
    exact LockRec.broken_noneJoin _ _

/-! ### The work of the copy and message commands -/

/-- A descriptor is accepted for the issuing port, which is ATTACHED (R104). -/
theorem State.copyRequest_session {j : CopyJob} (ha : s.attached p = true) : s.SessionStep (s.copyRequest p j).state o := by
  unfold State.copyRequest
  split
  · exact .refl s
  · split
    · exact .refl s
    · split
      · exact .refl s
      · unfold State.acceptCopy
        with_reducible refine .then_quiet (.setEngine fun q hq => ?_)
        rw [Engine.requesters_settle, List.map_append, List.mem_append, List.map_singleton, List.mem_singleton] at hq
        rcases hq with hq | rfl
        · exact .inr hq
        · exact .inl ha

theorem cancelCopyWork_session : s.SessionStep (cancelCopyWork p s).state o := by
  unfold cancelCopyWork
  split
  · exact .refl s
  · split
    · next d hfind =>
      exact .endDescriptor (List.eraseP_sublist.map _).subset (List.mem_map_of_mem (List.mem_of_find?_eq_some hfind))
    · split <;> exact .refl s

theorem takeCompletionWork_session (ha : s.attached p = true) : s.SessionStep (takeCompletionWork p s).state o := by
  unfold takeCompletionWork
  split
  · exact .refl s
  · with_reducible exact .onAttached ha

theorem resumeCopyWork_session : s.SessionStep (resumeCopyWork p s).state o := by
  unfold resumeCopyWork
  split
  · exact .setEngine fun q hq => .inr (by rwa [Engine.requesters_settle] at hq)
  · exact .refl s
  · exact .refl s

/-- A message is delivered to an ATTACHED port, with the session of its source (R128, R129). -/
theorem State.deliver_session {d : Port} {m : Message} (hd : s.attached d = true)
    (hm : ∃ k, s.attached k = true ∧ m.session = (s.port k).session) : s.SessionStep (s.deliver d m) o := by
  have hsame (q : Port) : (s.deliver d m).port q = { s.port q with inbox := ((s.deliver d m).port q).inbox } := by
    rw [State.deliver, State.port_onPort]
    split <;> rfl
  refine ⟨fun q => .same (by rw [hsame]) (by rw [hsame]) fun hn _ hb => ?_, fun q hq => .inr hq, fun q => by rw [hsame], rfl, rfl,
    fun q x hx => ?_, fun q => by rw [hsame]; exact id, fun q => by rw [hsame]; exact id⟩
  · rw [State.deliver, State.port_onPort_of_ne s (fun h => by simp [h, hd] at hn)]
    exact hb
  · rw [State.deliver, State.port_onPort] at hx
    split at hx
    · rcases List.mem_append.mp hx with hx | hx
      · exact .inl hx
      · rw [List.mem_singleton.mp hx]
        exact .inr hm
    · exact .inl hx

theorem sendWork_session (ha : s.attached p = true) : s.SessionStep (sendWork p s).state o := by
  unfold sendWork
  split
  · exact .refl s
  · split
    · exact .refl s
    · next hd =>
      split
      · exact .refl s
      · split
        · exact .refl s
        · exact State.deliver_session (by simpa using hd) ⟨p, ha, rfl⟩

theorem receiveWork_session (ha : s.attached p = true) : s.SessionStep (receiveWork p s).state o := by
  unfold receiveWork
  split
  · exact .refl s
  · next m ms hq =>
    with_reducible exact .onAttached ha (inbox := by rw [hq]; exact List.subset_cons_self m ms)

theorem setQuotaWork_session : s.SessionStep (setQuotaWork p s).state o := by
  unfold setQuotaWork
  split
  · exact .refl s
  · split
    · exact .refl s
    · with_reducible exact .quiet

theorem takeFaultWork_session (ha : s.attached p = true) : s.SessionStep (takeFaultWork p s).state o := by
  unfold takeFaultWork
  split
  · exact .refl s
  · with_reducible exact .onAttached ha

theorem takeLockEventsWork_session (ha : s.attached p = true) : s.SessionStep (takeLockEventsWork p s).state o := by
  unfold takeLockEventsWork
  with_reducible exact .onAttached ha

theorem takePeerEventsWork_session (ha : s.attached p = true) : s.SessionStep (takePeerEventsWork p s).state o := by
  unfold takePeerEventsWork
  with_reducible exact .onAttached ha (peers := fun _ => .inr ⟨rfl, rfl⟩)

/-! ### The work of the other commands -/

theorem setTickWork_session : s.SessionStep (setTickWork p s).state o := by
  unfold setTickWork
  split
  · exact .refl s
  · exact .of_records

theorem probeWork_session : s.SessionStep (probeWork p s).state o := by
  unfold probeWork
  split <;> exact .refl s

theorem getWindowWork_session : s.SessionStep (getWindowWork p s).state o := by
  unfold getWindowWork
  split <;> exact .refl s

theorem setWindowWork_session : s.SessionStep (setWindowWork p s).state o := by
  unfold setWindowWork
  split
  · exact .refl s
  · exact .of_records

theorem setDefaultRightsWork_session : s.SessionStep (setDefaultRightsWork p s).state o := by
  unfold setDefaultRightsWork
  split
  · exact .refl s
  · exact .of_records

/-! ### The other cycles -/

theorem State.beginPoolStatus_session : s.SessionStep (s.beginPoolStatus p) o := by
  unfold State.beginPoolStatus
  split
  · exact (State.SessionStep.refl s).post
  · exact .quiet

theorem State.takeAdata_session {k : AccessKind} : s.SessionStep (s.takeAdata p k) o := by
  unfold State.takeAdata
  split <;> exact .quiet

theorem State.writeAmode_session {w : Word} : s.SessionStep (s.writeAmode p w) o := by
  unfold State.writeAmode
  split
  · exact .quiet
  · exact .refl s

theorem State.writeEvenSet_session {w : Word} : s.SessionStep (s.writeEvenSet p w) o := by
  unfold State.writeEvenSet
  split
  · next ha => exact .onAttached ha
  · exact .refl s

/-- A write of EVEN_CLR sets no enable (R163). -/
theorem State.writeEvenClr_session {w : Word} : s.SessionStep (s.writeEvenClr p w) o := by
  refine .onPort ⟨rfl, rfl, rfl, fun _ hb => ?_, List.Subset.refl _, id, id⟩
  obtain ⟨hg, hr, hw, hu, hd, he, hrest⟩ := hb
  refine ⟨hg, hr, hw, hu, hd, ?_, hrest⟩
  simp [he]

theorem State.writePlain_session {r : PlainWord} {w : Word} : s.SessionStep (s.writePlain p r w) o := by
  cases r with
  | arg i | aaddr =>
    exact .quiet
  | _ => exact .refl s

/-! ### Every cycle -/

/-- A command is served for an ATTACHED port only (R173). -/
theorem State.issue_session {work : State → Reply} (h : s.attached p = true → s.SessionStep (work s).state o) :
    s.SessionStep (s.issue c p work) o :=
  State.issue_keeps (P := fun t => s.SessionStep t o) (.refl s) (fun _ _ _ _ => .post) h

/-- What the taking of any bus cycle does to the sessions. -/
theorem takeCycle_session (c : Instr) (s : State) : s.SessionStep (takeCycle c s) c.port? := by
  cases c with
  | attach p => exact State.attach_session
  | detach p => exact State.issue_session .endSession
  | evict p => exact State.issue_session fun _ => evictWork_session
  | acquire p => exact State.issue_session acquireWork_session
  | release p => exact State.issue_session fun _ => releaseWork_session
  | renew p => exact State.issue_session fun _ => renewWork_session
  | withdraw p => exact State.issue_session fun _ => withdrawWork_session
  | lockStatus p => exact State.issue_session fun _ => .withLock fun _ => .refl s
  | setLock p => exact State.issue_session fun _ => setLockWork_session
  | breakLock p => exact State.issue_session fun _ => breakWork_session
  | setTick p => exact State.issue_session fun _ => setTickWork_session
  | probe p => exact State.issue_session fun _ => probeWork_session
  | getWindow p => exact State.issue_session fun _ => getWindowWork_session
  | setWindow p => exact State.issue_session fun _ => setWindowWork_session
  | setDefaultRights p => exact State.issue_session fun _ => setDefaultRightsWork_session
  | copy p => exact State.issue_session State.copyRequest_session
  | fill p => exact State.issue_session State.copyRequest_session
  | cancelCopy p => exact State.issue_session fun _ => cancelCopyWork_session
  | takeCompletion p => exact State.issue_session takeCompletionWork_session
  | pauseCopy p => exact State.issue_session fun _ => .setEngine fun _ hq => .inr hq
  | resumeCopy p => exact State.issue_session fun _ => resumeCopyWork_session
  | send p => exact State.issue_session sendWork_session
  | receive p => exact State.issue_session receiveWork_session
  | msgStatus p => exact State.issue_session fun _ => .refl s
  | setQuota p => exact State.issue_session fun _ => setQuotaWork_session
  | takeLockEvents p => exact State.issue_session takeLockEventsWork_session
  | takePeerEvents p => exact State.issue_session takePeerEventsWork_session
  | takeFault p => exact State.issue_session takeFaultWork_session
  | poolStatus p => exact State.beginPoolStatus_session
  | badCommand p w => exact (State.SessionStep.refl s).post
  | adataRead p => exact State.takeAdata_session
  | adataWrite p w => exact State.takeAdata_session
  | amodeWrite p w => exact State.writeAmode_session
  | evenSet p w => exact State.writeEvenSet_session
  | evenClr p w => exact State.writeEvenClr_session
  | registerWrite p r w => exact State.writePlain_session
  | _ => exact .refl s

/-! ### The grants of the arbiter -/

/-- The service of an access fills the fault record of an ATTACHED port only (R87, R93). -/
theorem State.serveAccess_session {x : AccessRequest} : s.SessionStep (s.serveAccess p x) o := by
  unfold State.serveAccess State.servePermitted State.serveNotAttached State.serveRefused
  split
  · exact .quiet
  · next h =>
    split
    · split
      · exact .quiet
      · exact .after .quiet
    · have ha : s.attached p = true := by simpa using fun hn => h (.inl hn)
      exact .onAttached ha

theorem State.grantPort_session : s.SessionStep (s.grantPort p) o := by
  unfold State.grantPort
  split
  · exact .refl s
  · exact .after State.serveAccess_session

theorem State.serveWord_session {d : Descriptor} {rest : List Descriptor} (hq : s.engine.queue = d :: rest) :
    s.SessionStep (s.serveWord d rest) o := by
  have hhead : d.requester ∈ s.engine.queue.map Descriptor.requester := by simp [hq]
  have hrest : rest.map Descriptor.requester ⊆ s.engine.queue.map Descriptor.requester := by simp [hq]
  unfold State.serveWord
  split
  · exact .endDescriptor hrest hhead
  · next m _ =>
    split
    · refine .after (mem := m) (.endDescriptor ?_ ?_)
      · exact hrest
      · exact hhead
    · refine .after (mem := m) (.setEngine fun q hm => .inr ?_)
      rw [Engine.requesters_settle] at hm
      simpa [hq] using hm

theorem State.grantEngine_session : s.SessionStep s.grantEngine o := by
  unfold State.grantEngine
  split
  · refine .after (position := Requester.engine.following) (.setEngine fun q hq => .inr ?_)
    rwa [Engine.requesters_settle] at hq
  · next d rest hq => exact .after (State.serveWord_session (s := { s with position := Requester.engine.following }) hq)

/-! ### The lease timer -/

theorem State.tick_session : s.SessionStep s.tick o :=
  .after (count := 0) (.lockEvent fun _ q hq => .inr (LockRec.tick_noneJoin _ q hq))

/-- The passing of one CLK period (R31). -/
theorem State.clkPeriod_session : s.SessionStep s.clkPeriod o := by
  unfold State.clkPeriod
  split
  · exact .refl s
  · split
    · exact State.tick_session
    · exact .of_records

/-! ### Every event -/

/-- The events that bring a port DOWN or out of it. -/
inductive State.ResetEvent (s : State) : State → Prop where
  | assertReset : s.ResetEvent s.assertReset
  | negateReset (csel : Port) : s.ResetEvent (s.negateReset csel)
  | assertPortReset (p : Port) : s.ResetEvent (s.assertPortReset p)
  | negatePortReset (p : Port) : s.ResetEvent (s.negatePortReset p)

/-- Everything an event does to the sessions: it takes a cycle, is a reset, or opens no session. -/
theorem State.Event.session (h : s.Event t) : (∃ c, t = takeCycle c s) ∨ s.ResetEvent t ∨ s.SessionStep t none := by
  cases h with
  | cycle c => exact .inl ⟨c, rfl⟩
  | bus p f hf => exact .inr (.inr ((State.SessionStep.refl s).then_quiet (.of_busOnly hf)))
  | queue rest => exact .inr (.inr .of_records)
  | grantPort p => exact .inr (.inr State.grantPort_session)
  | grantEngine => exact .inr (.inr State.grantEngine_session)
  | count n => exact .inr (.inr .of_records)
  | tick => exact .inr (.inr State.tick_session)
  | waitExpiry l p => exact .inr (.inr (.onLock_noneJoin (LockRec.waitExpiry_noneJoin _ p)))
  | leaseExpiry l => exact .inr (.inr (.onLock_noneJoin (LockRec.leaseExpiry_noneJoin _)))
  | assertReset => exact .inr (.inl .assertReset)
  | negateReset csel => exact .inr (.inl (.negateReset csel))
  | assertPortReset p => exact .inr (.inl (.assertPortReset p))
  | negatePortReset p => exact .inr (.inl (.negatePortReset p))

end Sys2Proof.Machine
end

section
/-! PROOF. The resets, and the laws of the sessions: a law that session steps and resets keep is kept by every step, if need be with the
law of the buses, by which no cycle of a DOWN port is held. -/

namespace Sys2Proof.Machine

variable {s t : State} {p q : Port} {c : Instr} {P : State → Prop}

/-! ### The resets -/

/-- The record of a port while RESETn is asserted. -/
theorem State.port_assertReset (s : State) (q : Port) :
    s.assertReset.port q = { PortState.reset with prstAsserted := (s.port q).prstAsserted } := by
  simp [State.assertReset, State.port]

theorem State.lock_assertReset (s : State) (l : LockNo) : s.assertReset.lock l = LockRec.reset := by
  simp [State.assertReset, State.lock, State.reset]

theorem State.window_assertReset (s : State) (i : WindowNo) : s.assertReset.window i = Window.reset := by
  simp [State.assertReset, State.window, State.reset]

theorem State.not_uses_assertReset (s : State) (q : Port) : ¬ s.assertReset.Uses q := by
  rintro (⟨l, h⟩ | h)
  · rw [State.lock_assertReset] at h
    simp [LockRec.Involves, LockRec.heldBy, LockRec.reset] at h
  · cases h

theorem State.negateReset_of_negated {csel : Port} (h : s.resetAsserted = false) : s.negateReset csel = s := by
  rw [State.negateReset, if_pos h]

/-- The negation of RESETn where it is asserted (R143, R144). -/
theorem State.negateReset_of_asserted {csel : Port} (h : s.resetAsserted = true) : s.negateReset csel =
    ({ s with resetAsserted := false, control := some csel } : State).mapPorts fun _ r =>
      if r.prstAsserted then r else { r with mode := .detached } := by
  rw [State.negateReset, if_neg (by simp [h])]

/-- The record of a port after the negation of RESETn (R143). -/
theorem State.port_negateReset {csel : Port} (h : s.resetAsserted = true) : (s.negateReset csel).port q =
    if (s.port q).prstAsserted then s.port q else { s.port q with mode := .detached } := by
  rw [State.negateReset_of_asserted h, State.port_mapPorts]
  rfl

theorem State.port_negatePortReset_self : (s.negatePortReset p).port p = { s.port p with
      prstAsserted := false
      mode := if s.resetAsserted = false ∧ (s.port p).mode = .down then .detached else (s.port p).mode } := by
  rw [State.negatePortReset, State.port_onPort_self]

theorem State.port_negatePortReset_of_ne (h : q ≠ p) : (s.negatePortReset p).port q = s.port q :=
  State.port_onPort_of_ne s h _

/-- PRSTn asserted at a DOWN port (R145; log entry 11). -/
theorem State.assertPortReset_down (h : (s.port p).mode = .down) :
    s.assertPortReset p = s.onPort p fun r => { r with prstAsserted := true } := by
  rw [State.assertPortReset, h]

theorem State.assertPortReset_detached (h : (s.port p).mode = .detached) :
    s.assertPortReset p = s.onPort p fun r => { r.portReset with prstAsserted := true } := by
  rw [State.assertPortReset, h]

theorem State.assertPortReset_attached (h : (s.port p).mode = .attached) :
    s.assertPortReset p = (s.endSession p .down).onPort p fun r => { r.portReset with prstAsserted := true } := by
  rw [State.assertPortReset, h]

/-- The record of the port whose PRSTn is asserted (R145): an ATTACHED port has lost its session first. -/
theorem State.port_assertPortReset_self : (s.assertPortReset p).port p =
    match (s.port p).mode with
    | .down => { s.port p with prstAsserted := true }
    | .detached => { (s.port p).portReset with prstAsserted := true }
    | .attached => { ((s.port p).endSession .down).portReset with prstAsserted := true } := by
  cases h : (s.port p).mode with
  | down => rw [State.assertPortReset_down h, State.port_onPort_self]
  | detached => rw [State.assertPortReset_detached h, State.port_onPort_self]
  | attached =>
    rw [State.assertPortReset_attached h, State.port_onPort_self, State.endSession_port_self _ _ _ (by decide)]

/-- The port whose PRSTn is asserted is DOWN, with its session number kept, without a new message or peer bit; it is bare if it was,
or if it was ATTACHED (R145, R153). -/
theorem State.port_assertPortReset_spec :
    ((s.assertPortReset p).port p).mode = .down ∧ ((s.assertPortReset p).port p).prstAsserted = true
      ∧ ((s.assertPortReset p).port p).session = (s.port p).session
      ∧ ((s.assertPortReset p).port p).inbox ⊆ (s.port p).inbox
      ∧ (((s.assertPortReset p).port p).peerUp.has q = true → (s.port p).peerUp.has q = true)
      ∧ (((s.assertPortReset p).port p).peerDown.has q = true → (s.port p).peerDown.has q = true)
      ∧ ((s.attached p = false → (s.port p).Bare) → ((s.assertPortReset p).port p).Bare) := by
  rw [State.port_assertPortReset_self]
  cases h : (s.port p).mode with
  | down =>
    exact ⟨h, rfl, rfl, List.Subset.refl _, id, id, fun hb => hb (State.attached_eq_false_iff.mpr (by simp [h]))⟩
  | detached =>
    refine ⟨rfl, rfl, rfl, List.Subset.refl _, id, id, fun hb => ?_⟩
    obtain ⟨hg, hr, hw, hu, hd, _, hrest⟩ := hb (State.attached_eq_false_iff.mpr (by simp [h]))
    exact ⟨hg, hr, hw, hu, hd, rfl, hrest⟩
  | attached =>
    exact ⟨rfl, rfl, rfl, List.nil_subset _, by simp [PortState.portReset, PortState.endSession],
      by simp [PortState.portReset, PortState.endSession], fun _ => ⟨rfl, rfl, rfl, rfl, rfl, rfl, rfl, rfl, rfl⟩⟩

/-- Every other port keeps its session (R145). -/
theorem State.assertPortReset_other_kept (h : q ≠ p) : (s.port q).SessionKept q ((s.assertPortReset p).port q) := by
  unfold State.assertPortReset
  split <;> rw [State.port_onPort_of_ne _ h]
  · exact .refl q _
  · exact .refl q _
  · exact State.endSession_other_kept h

/-- What the port whose PRSTn is asserted uses it used before, and nothing if it was ATTACHED; no other port uses more. -/
theorem State.uses_of_assertPortReset (h : (s.assertPortReset p).Uses q) : s.Uses q ∧ (q = p → s.attached p = false) := by
  unfold State.assertPortReset at h
  split at h
  · next hm => exact ⟨h, fun _ => by simp [State.attached, hm]⟩
  · next hm => exact ⟨h, fun _ => by simp [State.attached, hm]⟩
  · rw [State.uses_onPort] at h
    refine ⟨State.uses_of_endSession h, ?_⟩
    rintro rfl
    exact absurd h (State.not_uses_endSession _)

/-! ### The resets keep the laws -/

theorem State.ResetEvent.sessionLaw (h : s.ResetEvent t) (hs : s.SessionLaw) : t.SessionLaw := by
  obtain ⟨hnumber, hinbox⟩ := hs
  cases h with
  | assertReset =>
    refine ⟨fun q hq => ?_, fun q m hm => ?_⟩
    · rw [State.attached_iff, State.port_assertReset] at hq; cases hq
    · rw [State.port_assertReset] at hm; cases hm
  | negateReset csel =>
    cases hr : s.resetAsserted with
    | false => rw [State.negateReset_of_negated hr]; exact ⟨hnumber, hinbox⟩
    | true =>
      refine ⟨fun q hq => ?_, fun q m hm => hinbox q m ?_⟩
      · rw [State.attached_iff, State.port_negateReset hr] at hq
        rw [State.port_negateReset hr]
        split at hq
        · next hp => rw [if_pos hp]; exact hnumber q (State.attached_iff.mpr hq)
        · cases hq
      · rw [State.port_negateReset hr] at hm
        split at hm <;> exact hm
  | assertPortReset p =>
    obtain ⟨hmode, _, hsession, hin, _⟩ := State.port_assertPortReset_spec (s := s) (p := p) (q := p)
    refine ⟨fun q hq => ?_, fun q m hm => hinbox q m ?_⟩ <;> rcases eq_or_ne q p with rfl | hne
    · rw [State.attached_iff, hmode] at hq; cases hq
    · have hk := State.assertPortReset_other_kept (s := s) hne
      rw [hk.session]
      exact hnumber q (by rwa [State.attached, ← hk.mode])
    · exact hin hm
    · exact (State.assertPortReset_other_kept hne).inbox hm
  | negatePortReset p =>
    refine ⟨fun q hq => ?_, fun q m hm => hinbox q m ?_⟩ <;> rcases eq_or_ne q p with rfl | hne
    · rw [State.attached_iff, State.port_negatePortReset_self] at hq
      rw [State.port_negatePortReset_self]
      dsimp only at hq
      split at hq
      · cases hq
      · exact hnumber q (State.attached_iff.mpr hq)
    · rw [State.attached, State.port_negatePortReset_of_ne hne] at hq
      rw [State.port_negatePortReset_of_ne hne]
      exact hnumber q hq
    · rwa [State.port_negatePortReset_self] at hm
    · rwa [State.port_negatePortReset_of_ne hne] at hm

theorem State.ResetEvent.peerLaw (h : s.ResetEvent t) (hs : s.PeerLaw) : t.PeerLaw := by
  have hkept (q : Port) : ((t.port q).peerUp.has q = true → (s.port q).peerUp.has q = true)
      ∧ ((t.port q).peerDown.has q = true → (s.port q).peerDown.has q = true) := by
    cases h with
    | assertReset => rw [State.port_assertReset]; simp [PortState.reset]
    | negateReset csel =>
      cases hr : s.resetAsserted with
      | false => rw [State.negateReset_of_negated hr]; exact ⟨id, id⟩
      | true => rw [State.port_negateReset hr]; split <;> exact ⟨id, id⟩
    | assertPortReset p =>
      rcases eq_or_ne q p with rfl | hne
      · obtain ⟨_, _, _, _, hup, hdown, _⟩ := State.port_assertPortReset_spec (s := s) (p := q) (q := q)
        exact ⟨hup, hdown⟩
      · have hk := State.assertPortReset_other_kept (s := s) hne
        exact ⟨hk.peerUp, hk.peerDown⟩
    | negatePortReset p =>
      rcases eq_or_ne q p with rfl | hne
      · rw [State.port_negatePortReset_self]; exact ⟨id, id⟩
      · rw [State.port_negatePortReset_of_ne hne]; exact ⟨id, id⟩
  exact hs.of_imp (fun q => (hkept q).1) fun q => (hkept q).2

theorem State.ResetEvent.resetLaw (h : s.ResetEvent t) (hs : s.ResetLaw) : t.ResetLaw := by
  obtain ⟨hdown, hcontrol⟩ := hs
  cases h with
  | assertReset =>
    refine ⟨fun q => ?_, by simp [State.assertReset, State.reset]⟩
    rw [State.port_assertReset]
    simp [PortState.reset, State.assertReset, State.reset]
  | negateReset csel =>
    cases hr : s.resetAsserted with
    | false => rw [State.negateReset_of_negated hr]; exact ⟨hdown, hcontrol⟩
    | true =>
      refine ⟨fun q => ?_, by rw [State.negateReset_of_asserted hr]; simp⟩
      rw [State.port_negateReset hr, State.negateReset_of_asserted hr, State.resetAsserted_mapPorts]
      cases hp : (s.port q).prstAsserted with
      | true => simp [hdown, hr, hp]
      | false => simp [hp]
  | assertPortReset p =>
    obtain ⟨hmode, hprst, _⟩ := State.port_assertPortReset_spec (s := s) (p := p) (q := p)
    have hreset : (s.assertPortReset p).resetAsserted = s.resetAsserted := by
      unfold State.assertPortReset; split <;> rfl
    have hctrl : (s.assertPortReset p).control = s.control := by
      unfold State.assertPortReset; split <;> rfl
    refine ⟨fun q => ?_, by rw [hreset, hctrl]; exact hcontrol⟩
    rcases eq_or_ne q p with rfl | hne
    · simp [hmode, hprst]
    · have hk := State.assertPortReset_other_kept (s := s) hne
      rw [hk.mode, hk.prst, hreset]
      exact hdown q
  | negatePortReset p =>
    refine ⟨fun q => ?_, hcontrol⟩
    rcases eq_or_ne q p with rfl | hne
    · rw [State.port_negatePortReset_self]
      change _ ↔ s.resetAsserted = true ∨ _
      cases hr : s.resetAsserted with
      | true => simp [hdown, hr]
      | false => cases (s.port q).mode <;> simp
    · rw [State.port_negatePortReset_of_ne hne]
      exact hdown q

/-- At the negation of RESETn every port is DOWN, so that a port that becomes DETACHED has nothing. -/
theorem State.ResetEvent.absentBare (h : s.ResetEvent t) (hr : s.ResetLaw) (hs : s.AbsentBare) : t.AbsentBare := by
  obtain ⟨hdown, _⟩ := hr
  rw [State.absentBare_iff] at hs ⊢
  intro q hq
  cases h with
  | assertReset =>
    refine ⟨?_, State.not_uses_assertReset s q⟩
    rw [State.port_assertReset]
    exact ⟨rfl, rfl, rfl, rfl, rfl, rfl, rfl, rfl, rfl⟩
  | negateReset csel =>
    cases ha : s.resetAsserted with
    | false => rw [State.negateReset_of_negated ha] at hq ⊢; exact hs q hq
    | true =>
      have hmode : (s.port q).mode = .down := (hdown q).mpr (.inl ha)
      obtain ⟨hbare, huses⟩ := hs q (State.attached_eq_false_iff.mpr (by simp [hmode]))
      refine ⟨?_, ?_⟩
      · rw [State.port_negateReset ha]
        split <;> exact hbare
      · rw [State.negateReset_of_asserted ha]
        exact huses
  | assertPortReset p =>
    rcases eq_or_ne q p with rfl | hne
    · obtain ⟨_, _, _, _, _, _, hbare⟩ := State.port_assertPortReset_spec (s := s) (p := q) (q := q)
      refine ⟨hbare fun hn => (hs q hn).1, fun hu => ?_⟩
      obtain ⟨hu, hn⟩ := State.uses_of_assertPortReset hu
      exact (hs q (hn rfl)).2 hu
    · have hk := State.assertPortReset_other_kept (s := s) hne
      have hbefore : s.attached q = false := by rwa [State.attached, ← hk.mode]
      obtain ⟨hbare, huses⟩ := hs q hbefore
      exact ⟨hk.bare (State.attached_eq_false_iff.mp hbefore) hbare, fun hu => huses (State.uses_of_assertPortReset hu).1⟩
  | negatePortReset p =>
    have hbefore : s.attached q = false := by
      rw [State.attached_eq_false_iff] at hq ⊢
      rcases eq_or_ne q p with rfl | hne
      · rw [State.port_negatePortReset_self] at hq
        dsimp only at hq
        split at hq
        · next hm => simp [hm.2]
        · exact hq
      · rwa [State.port_negatePortReset_of_ne hne] at hq
    obtain ⟨hbare, huses⟩ := hs q hbefore
    refine ⟨?_, huses⟩
    rcases eq_or_ne q p with rfl | hne
    · rw [State.port_negatePortReset_self]; exact hbare
    · rw [State.port_negatePortReset_of_ne hne]; exact hbare

/-! ### The session numbers and the peer sets -/

/-- A law that session steps and resets keep is kept by every step. -/
theorem keptByStep_of_sessions (hstep : ∀ s t o, State.SessionStep s t o → P s → P t)
    (hreset : ∀ s t, State.ResetEvent s t → P s → P t) : KeptByStep P :=
  keptByStep_of_events fun s t h hs => by
    rcases h.session with ⟨c, rfl⟩ | h | h
    · exact hstep s _ _ (takeCycle_session c s) hs
    · exact hreset s t h hs
    · exact hstep s t none h hs

/-- Settles O13: the two laws are laws that session steps and resets keep. -/
theorem stepKeepsSessionLaws : Obligations.StepKeepsSessionLaws :=
  ⟨keptByStep_of_sessions (fun _ _ _ h => h.sessionLaw) fun _ _ h => h.sessionLaw,
    keptByStep_of_sessions (fun _ _ _ h => h.peerLaw) fun _ _ h => h.peerLaw⟩

/-! ### The cycles of a port that is not DOWN -/

/-- A law that the cycles of ports that are not DOWN keep. -/
def UpCyclesKeep (P : State → Prop) : Prop :=
  ∀ (c : Instr) (u : State), (∀ p, c.port? = some p → (u.port p).mode ≠ .down) → P u → P (takeCycle c u)

/-- The law, together with a port's not being DOWN: what is kept while that port's cycles are taken one after the other. -/
def State.KeptUp (P : State → Prop) (p : Port) (s : State) : Prop := P s ∧ (s.port p).mode ≠ .down

theorem State.KeptUp.busBlind (hb : BusBlind P) : BusBlind (State.KeptUp P p) := by
  rintro u q f hf ⟨hu, hup⟩
  refine ⟨hb u q f hf hu, ?_⟩
  rw [State.port_onPort]
  split
  · rw [hf]; exact hup
  · exact hup

theorem State.KeptUp.takeCycle (hw : UpCyclesKeep P) (hp : c.port? = some p) (h : s.KeptUp P p) : (takeCycle c s).KeptUp P p := by
  obtain ⟨hs, hup⟩ := h
  refine ⟨hw c s (fun q hq => ?_) hs, fun hd => hup (takeCycle_down hd)⟩
  obtain rfl : p = q := Option.some_injective _ (hp.symm.trans hq)
  exact hup

theorem State.KeptUp.takeHeld {held : List Instr} {ended : Bool} (hb : BusBlind P) (hw : UpCyclesKeep P)
    (hh : ∀ c ∈ held, c.wellFormed = true ∧ c.port? = some p) (h : s.KeptUp P p) : (takeHeld p ended held s).KeptUp P p :=
  takeHeld_keeps (State.KeptUp.busBlind hb) (fun c hc _ => .takeCycle hw (hh c hc).2) h

theorem State.KeptUp.answerBus (hb : BusBlind P) (hw : UpCyclesKeep P) (hl : s.BusLaw) (h : s.KeptUp P p) :
    (s.answerBus p).KeptUp P p := by
  obtain ⟨_, _, _, _, hcycles⟩ := hl p
  exact .takeHeld hb hw hcycles (State.answerCommand_keeps (State.KeptUp.busBlind hb) h)

theorem State.KeptUp.caughtUp (hb : BusBlind P) (hw : UpCyclesKeep P) (hl : s.BusLaw) (h : s.KeptUp P p) :
    (s.caughtUp p).KeptUp P p := by
  unfold State.caughtUp
  generalize (s.port p).held.length + 1 = n
  induction n generalizing s with
  | zero => exact h
  | succ n ih =>
    unfold State.answerBuses
    split
    · next ha => exact ih (State.answerBus_busLaw hl ha) (.answerBus hb hw hl h)
    · exact h

/-- The start of a cycle keeps the law: a DOWN port's bus does not respond (R141). -/
theorem State.cycle_keeps_up (hb : BusBlind P) (hw : UpCyclesKeep P) (hp : c.port? = some p) (hl : s.BusLaw) (hs : P s) :
    P (s.cycle p c) := by
  rcases State.cycle_cases (s := s) (p := p) (c := c) with h | ⟨_, _, _, h⟩ | ⟨hup, _, h⟩ <;> rw [h]
  · exact hs
  · exact hb s p _ (fun _ => rfl) hs
  · exact (State.KeptUp.takeCycle hw hp (.caughtUp hb hw hl ⟨hs, hup⟩)).1

/-- What a bus does on an empty queue keeps the law: a DOWN port has no unanswered cycle (R145). -/
theorem State.busStep_keeps_up (hb : BusBlind P) (hw : UpCyclesKeep P) (hl : s.BusLaw) (h : s.readyCycle = some p) (hs : P s) :
    P (s.busStep p) := by
  have ha : (s.port p).answerable = true := by simpa using List.find?_some h
  obtain ⟨_, htaken⟩ := (State.busLaw_iff.mp hl p).answerable ha
  unfold State.busStep
  split
  · exact hb s p _ (fun _ => rfl) hs
  · exact State.post_keeps hb hs
  · exact (State.KeptUp.answerBus hb hw hl ⟨hs, htaken.up⟩).1
  · exact (State.KeptUp.answerBus hb hw hl ⟨hs, htaken.up⟩).1

/-- The grant of a waiting access keeps the law: a port with an unanswered cycle is not DOWN (R145). -/
theorem State.grantPort_keeps_up (hb : BusBlind P) (hw : UpCyclesKeep P) (hl : s.BusLaw) (h : s.choice = some (.port p))
    (hs : P (s.grantPort p)) : P (takeHeld p (s.port p).cycleEnded (s.port p).held (s.grantPort p)) := by
  obtain ⟨x, hx⟩ := State.request_of_choice h
  have htaken := (State.busLaw_iff.mp hl p).taken (by simp [PortState.busy, PortState.stretched, hx])
  have hmode : ((s.grantPort p).port p).mode ≠ .down := by
    rw [State.grantPort, hx]
    obtain ⟨_, _, hm⟩ :=
      State.serveAccess_port_self (s := { s with position := (Requester.port p).following }) (p := p) (x := x)
    exact fun hd => htaken.up (hm.symm.trans hd)
  exact (State.KeptUp.takeHeld hb hw htaken.cycles ⟨hs, hmode⟩).1

/-! ### The ports that are not ATTACHED -/

/-- A law that resets keep, and session steps whose cycle is of a port that is not DOWN, is kept by every step that starts with
lawful buses. -/
theorem keptByStep_of_sessions_up
    (hstep : ∀ s t o, State.SessionStep s t o → (∀ p, o = some p → (s.port p).mode ≠ .down) → P s → P t)
    (hreset : ∀ s t, State.ResetEvent s t → P s → P t) : KeptByStep fun s => s.BusLaw ∧ P s := by
  have hnone (s t : State) (h : s.SessionStep t none) : P s → P t := hstep s t none h nofun
  have hb : BusBlind P := fun u q f hf => hnone _ _ (.quiet (.of_busOnly hf))
  have hw : UpCyclesKeep P := fun c u hup => hstep _ _ _ (takeCycle_session c u) hup
  have hexec (s t : State) (h : s.Executed t) (hl : s.BusLaw) (hs : P s) : P t := by
    cases h with
    | nothing => exact hs
    | start p c _ hp => exact State.cycle_keeps_up hb hw hp hl hs
    | grantPort p hc => exact State.grantPort_keeps_up hb hw hl hc (hnone _ _ State.grantPort_session hs)
    | grantEngine => exact hnone _ _ State.grantEngine_session hs
    | tick => exact hnone _ _ State.tick_session hs
    | waitExpiry l p => exact hnone _ _ (.onLock_noneJoin (LockRec.waitExpiry_noneJoin _ p)) hs
    | leaseExpiry l => exact hnone _ _ (.onLock_noneJoin (LockRec.leaseExpiry_noneJoin _)) hs
    | assertReset => exact hreset _ _ .assertReset hs
    | negateReset csel => exact hreset _ _ (.negateReset csel) hs
    | assertPortReset p => exact hreset _ _ (.assertPortReset p) hs
    | negatePortReset p => exact hreset _ _ (.negatePortReset p) hs
    | endEarly p _ => exact hb _ _ _ (fun _ => rfl) hs
  rintro s t ⟨hl, hs⟩ h
  refine ⟨keptByStep_busLaw s t hl h, ?_⟩
  rcases step_cases h with ⟨c, rest, _, hx⟩ | ⟨p, _, hr, rfl⟩ | ⟨_, _, rfl⟩
  · exact hexec _ _ (exec_cases hx) hl (hnone _ _ .of_records hs)
  · exact State.busStep_keeps_up hb hw hl hr hs
  · exact hnone _ _ State.clkPeriod_session hs

/-- Settles O12: the two laws are laws that resets and session steps of ports that are not DOWN keep. -/
theorem stepKeepsAbsentPortsBare : Obligations.StepKeepsAbsentPortsBare :=
  ⟨keptByStep_of_sessions_up (fun _ _ _ h hup => h.resetLaw hup) fun _ _ h => h.resetLaw,
    keptByStep_of_sessions_up (fun _ _ _ h hup ⟨hr, hs⟩ => ⟨h.resetLaw hup hr, h.absentBare hs⟩)
      fun _ _ h ⟨hr, hs⟩ => ⟨h.resetLaw hr, h.absentBare hr hs⟩⟩

end Sys2Proof.Machine
end

section
/-! PROOF. The session commands as runs of their work (R147, R148, R150, R151, R154), and what every command meets first (R141, R173). -/

namespace Sys2Proof.Machine

variable {s t : State} {p q : Port} {c : Instr} {code : Byte} {work : State → Reply}

/-! ### What a command meets first -/

/-- A command with a code of Table 9-1 is well formed. -/
theorem wellFormed_of_code (h : c.code? = some code) : c.wellFormed = true := by
  cases c with
  | badCommand q w => cases h
  | _ => rfl

/-- Every command but ATTACH and POOL_STATUS is issued to its block after the same checks (R171, R173). -/
theorem takeCycle_of_code (hp : c.port? = some p) (hc : c.code? = some code) (h1 : code ≠ 0x01) :
    c = .poolStatus p ∨ ∃ work, ∀ s, takeCycle c s = s.issue c p work := by
  cases c with
  | attach k => exact absurd (Option.some_injective _ hc).symm h1
  | poolStatus k => cases hp; exact .inl rfl
  | badCommand k w | adataRead k | adataWrite k w | amodeWrite k w | evenSet k w | evenClr k w | registerWrite k r w => cases hc
  | apertureAccess | copyWordMove | leaseTick | waitExpiry l k | leaseExpiry l | resetnAsserted | resetnNegated k
  | prstnAsserted k | prstnNegated k | cycleEndedEarly k => cases hp
  | _ =>
    cases hp
    exact .inr ⟨_, fun _ => rfl⟩

/-- Step 2 of R173: a command of a port that is not ATTACHED. -/
theorem State.issue_of_not_attached (hc : c.code? = some code) (ha : s.attached p = false) :
    s.issue c p work = s.post p code .notAttached [] := by
  rw [State.issue, hc, State.command, if_pos ha]
  rfl

/-- Step 3 of R173: a reserved command of a port without the control flag. -/
theorem State.issue_of_not_permitted (hc : c.code? = some code) (ha : s.attached p = true) (hr : reservedCode code = true)
    (hk : s.isControl p = false) : s.issue c p work = s.post p code .notPermitted [] := by
  rw [State.issue, hc, State.command, if_neg (by simp [ha]), if_pos (by simp [hr, hk])]
  rfl

/-- Settles O16: the bus of a DOWN port, then steps 2 and 3 of R173 for every command but ATTACH. -/
theorem commandsNeedASessionAndPermission : Obligations.CommandsNeedASessionAndPermission := by
  intro c p s hp
  refine ⟨fun hw hd => by rw [exec_cycle hp hw, State.cycle_down hd], fun code hc hb => ⟨fun hm h1 => ?_, fun hm hr hk => ?_⟩⟩
  · have ha : s.attached p = false := by simp [State.attached, hm]
    rw [exec_ready ⟨by simp [hm], hb⟩ hp (wellFormed_of_code hc)]
    rcases takeCycle_of_code hp hc h1 with rfl | ⟨work, hwork⟩
    · cases hc
      rw [takeCycle, State.beginPoolStatus, if_pos ha]
    · rw [hwork, State.issue_of_not_attached hc ha]
  · have h1 : code ≠ 0x01 := by rintro rfl; cases hr
    rw [exec_ready ⟨by simp [hm], hb⟩ hp (wellFormed_of_code hc)]
    rcases takeCycle_of_code hp hc h1 with rfl | ⟨work, hwork⟩
    · cases hc
      cases hr
    · rw [hwork, State.issue_of_not_permitted hc (State.attached_iff.mpr hm) hr hk]

/-! ### ATTACH -/

/-- The number of the session that follows (R147). -/
theorem nextSession_toNat (n : Byte) : (nextSession n).toNat = if n.toNat = 255 then 1 else n.toNat + 1 := by
  unfold nextSession
  by_cases h : n = 255
  · subst h; rfl
  · have hn : n.toNat ≠ 255 := fun hn => h (BitVec.eq_of_toNat_eq hn)
    rw [if_neg h, if_neg hn]
    bv_omega

theorem State.attach_of_attached (h : s.attached p = true) : s.attach p = s.post p 0x01 .alreadyAttached [] := by
  rw [State.attach, if_pos h]

theorem State.attach_of_detached (h : s.attached p = false) : s.attach p =
    ((s.onPort p fun r => { r with mode := .attached, session := nextSession r.session }).announceUp p).post p 0x01 .ok
      [(nextSession (s.port p).session).setWidth 16, flagWord (s.isControl p)] := by
  rw [State.attach, if_neg (by simp [h])]

/-- Settles O53: ATTACH is taken without step 2 of R173, and opens a session where there is none. -/
theorem attachOpensASession : Obligations.AttachOpensASession := by
  intro s p hb
  have hrun (hup : (s.port p).mode ≠ .down) : exec (.attach p) s = .next (s.attach p) := exec_ready ⟨hup, hb⟩ rfl rfl
  refine ⟨fun hm => ?_, fun hm => ?_⟩
  · rw [hrun (by simp [hm]), State.attach_of_attached (State.attached_iff.mpr hm)]
  · refine ⟨nextSession (s.port p).session, _, nextSession_toNat _, hrun (by simp [hm]), ?_⟩
    rw [State.attach_of_detached (by simp [State.attached, hm])]
    refine ⟨?_, fun q hq => ?_, fun _ => rfl, by simp [State.SameChip, State.announceUp]⟩
    · rw [State.port_post, if_pos rfl, State.port_open_announceUp, if_pos rfl]
      rfl
    · rw [State.port_post, if_neg hq, State.port_open_announceUp, if_neg hq]

/-! ### DETACH -/

/-- What a session end leaves of the port's own record: its words, its bus, its number, quota and serial counter, and its pin. -/
theorem State.endSession_keeps_words (s : State) (p : Port) {m : PortMode} (hm : m ≠ .attached) :
    ((s.endSession p m).port p).aaddr = (s.port p).aaddr ∧ ((s.endSession p m).port p).amode = (s.port p).amode
      ∧ ((s.endSession p m).port p).args = (s.port p).args ∧ ((s.endSession p m).port p).request = (s.port p).request
      ∧ ((s.endSession p m).port p).prstAsserted = (s.port p).prstAsserted
      ∧ ((s.endSession p m).port p).held = (s.port p).held
      ∧ ((s.endSession p m).port p).cycleEnded = (s.port p).cycleEnded
      ∧ ((s.endSession p m).port p).answer = (s.port p).answer := by
  rw [State.endSession_port_self _ _ _ hm]
  exact ⟨rfl, rfl, rfl, rfl, rfl, rfl, rfl, rfl⟩

/-- A session end posts nothing and answers nothing, at no port. -/
theorem State.endSession_posts_nothing (s : State) (p q : Port) {m : PortMode} (hm : m ≠ .attached) :
    ((s.endSession p m).port q).status = (s.port q).status ∧ ((s.endSession p m).port q).res = (s.port q).res
      ∧ ((s.endSession p m).port q).command = (s.port q).command := by
  rcases eq_or_ne q p with rfl | hq
  · rw [State.endSession_port_self _ _ _ hm]
    exact ⟨rfl, rfl, rfl⟩
  · rw [State.endSession_port_other _ _ _ _ hq]
    split <;> exact ⟨rfl, rfl, rfl⟩

/-- A result without result words, at its port (R174). -/
theorem State.post_words_none (s : State) (p : Port) (code : Byte) (res : Result) :
    ((s.post p code res []).port p).status = statusWord res code
      ∧ (∀ i : Fin 10, ((s.post p code res []).port p).res[i] = 0)
      ∧ ((s.post p code res []).port p).command = some .posted := by
  rw [State.port_post, if_pos rfl]
  exact ⟨rfl, fun i => by simp, rfl⟩

theorem exec_detach (h : s.CanCommand p) : exec (.detach p) s = .next ((s.endSession p .detached).post p 0x02 .ok []) :=
  exec_open (cmd := detachWork p) h rfl rfl rfl rfl rfl rfl

/-- Settles O54: a session end, then the posting at the same port. -/
theorem detachEndsTheSession : Obligations.DetachEndsTheSession := by
  intro s p h
  have hm : PortMode.detached ≠ .attached := by decide
  obtain ⟨hrequest, _, hheld⟩ := PortState.busy_eq_false_iff.mp h.2
  obtain ⟨ha, hmode, hargs, hreq, hprst, hh, hended, hanswer⟩ := s.endSession_keeps_words p hm
  obtain ⟨hstatus, hres, hcommand⟩ := (s.endSession p .detached).post_words_none p 0x02 .ok
  refine ⟨_, exec_detach h, (s.endSession_spec p .detached hm).post, ?_, ?_, ?_, hstatus, hres, hcommand, ?_, ?_, ?_, ?_, ?_,
    fun q hq => ?_⟩
  · rwa [State.post_port_aaddr]
  · rwa [State.post_port_amode]
  · rwa [State.post_port_args]
  · rw [State.post_port_request, hreq, hrequest]
  · rw [State.post_port_held, hh, hheld]
  · rwa [State.post_port_cycleEnded]
  · rwa [State.post_port_answer]
  · rwa [State.post_port_prstAsserted]
  · rw [State.port_post, if_neg hq]
    exact s.endSession_posts_nothing p q hm

/-! ### EVICT -/

theorem evictArg_none {w : Word} (h : 3 < w.toNat ∨ w.toNat = p.val) : evictArg p w = none := by
  unfold evictArg
  rcases h with h | h
  · rw [portField_none h]
  · rw [portField_of h]
    exact if_pos rfl

theorem evictArg_of {w : Word} (hq : q ≠ p) (h : w.toNat = q.val) : evictArg p w = some q := by
  rw [evictArg, portField_of h]
  exact if_neg hq

theorem evictWork_badArg (h : 3 < (s.arg p 0).toNat ∨ (s.arg p 0).toNat = p.val) :
    evictWork p s = { state := s, result := .badArg } := by
  rw [evictWork, evictArg_none h]

section
variable (hq : q ≠ p) (ht : (s.arg p 0).toNat = q.val)
include hq ht

theorem evictWork_targetDown (h : s.attached q = false) : evictWork p s = { state := s, result := .targetDown } := by
  rw [evictWork, evictArg_of hq ht]
  exact if_pos h

theorem evictWork_evicts (h : s.attached q = true) :
    evictWork p s = { state := s.endSession q .detached, result := .ok } := by
  rw [evictWork, evictArg_of hq ht]
  exact if_neg (by simp [h])

end

theorem exec_evict_of {a : Reply} (h : s.CanCommand p) (hk : s.isControl p = true) (hw : evictWork p s = a) :
    exec (.evict p) s = .next (a.state.post p 0x03 a.result a.words) := exec_control h hk hw rfl rfl rfl rfl

/-- Settles O55: each check of EVICT in its turn, and a session end with the posting at another port. -/
theorem evictEndsAnotherSession : Obligations.EvictEndsAnotherSession := by
  intro s c h hk
  refine ⟨fun hbad => exec_evict_of h hk (evictWork_badArg hbad), fun p hp ht => ⟨fun hdown => ?_, fun hup => ?_⟩⟩
  · exact exec_evict_of h hk (evictWork_targetDown hp ht hdown)
  · have hm : PortMode.detached ≠ .attached := by decide
    obtain ⟨hstatus, hres, hcommand⟩ := (s.endSession p .detached).post_words_none c 0x03 .ok
    refine ⟨_, exec_evict_of h hk (evictWork_evicts hp ht hup), (s.endSession_spec p .detached hm).post, ?_⟩
    have hsame (q : Port) (hq : q ≠ c) :
        ((s.endSession p .detached).post c 0x03 .ok []).port q = (s.endSession p .detached).port q := by
      rw [State.port_post, if_neg hq]
    obtain ⟨ha, hmode, hargs, hreq, hprst, hh, hended, hanswer⟩ := s.endSession_keeps_words p hm
    rw [hsame p hp]
    refine ⟨ha, hmode, hargs, hreq, hprst, hh, hended, hanswer, hstatus, hres, hcommand, fun q hq => ?_⟩
    rw [hsame q hq]
    exact s.endSession_posts_nothing p q hm

end Sys2Proof.Machine
end

section
/-! PROOF. The resets as the manual states them (R143 to R146), the reset state's laws, and what the agent of a port sees of its bus
(R156, R176, R178, R181). -/

namespace Sys2Proof.Machine

variable {s t : State} {p q : Port} {w : WindowWord}

/-! ### PRSTn -/

/-- PRSTn resets the port-local words of a port after its session end, and undoes nothing of it (R145, R153). -/
theorem State.SessionEnded.portReset (h : s.SessionEnded t p .down) :
    s.SessionEnded (t.onPort p fun r => { r.portReset with prstAsserted := true }) p .down := by
  obtain ⟨_, hbare, hsession, hquota, hserial, hlocks, hengine, hothers, hrest⟩ := h
  obtain ⟨hg, hr, hw, hu, hd, _, hleft⟩ := hbare
  refine ⟨?_, ?_, ?_, ?_, ?_, fun l => ?_, hengine, fun q hq => ?_, hrest⟩
  · rw [State.port_onPort_self]; rfl
  · rw [State.port_onPort_self]; exact ⟨hg, hr, hw, hu, hd, rfl, hleft⟩
  · rw [State.port_onPort_self]; exact hsession
  · rw [State.port_onPort_self]; exact hquota
  · rw [State.port_onPort_self]; exact hserial
  · obtain ⟨hheld, hqueued, e, d, he, hd, hkept, hchanged, hgranted⟩ := hlocks l
    refine ⟨hheld, hqueued, e, d, he, hd, hkept, hchanged, fun q hq => ?_⟩
    rw [State.port_onPort_of_ne t hq]
    exact hgranted q hq
  · rw [State.port_onPort_of_ne t hq]
    exact hothers q hq

/-- What PRSTn asserted leaves as it is, whatever the port's state: its quota and its serial counter, the memory, the arbiter's
position and the control port (R145). -/
theorem State.assertPortReset_frame : ((s.assertPortReset p).port p).quota = (s.port p).quota
      ∧ ((s.assertPortReset p).port p).serial = (s.port p).serial ∧ (s.assertPortReset p).mem = s.mem
      ∧ (s.assertPortReset p).position = s.position ∧ (s.assertPortReset p).control = s.control := by
  have hframe : (s.assertPortReset p).mem = s.mem ∧ (s.assertPortReset p).position = s.position
      ∧ (s.assertPortReset p).control = s.control := by
    unfold State.assertPortReset
    split <;> exact ⟨rfl, rfl, rfl⟩
  rw [State.port_assertPortReset_self]
  cases (s.port p).mode <;> exact ⟨rfl, rfl, hframe⟩

/-- PRSTn asserted at a port that is not DOWN resets its port-local words and abandons its cycles (R145, R94, R176). -/
theorem State.assertPortReset_words (h : (s.port p).mode ≠ .down) :
    ∃ r : PortState, (s.assertPortReset p).port p = { r.portReset with prstAsserted := true } := by
  rw [State.port_assertPortReset_self]
  cases hm : (s.port p).mode with
  | down => exact absurd hm h
  | detached => exact ⟨_, rfl⟩
  | attached => exact ⟨_, rfl⟩

/-- Settles O56: PRSTn asserted, by the state of the port, and PRSTn negated. -/
theorem portResetAndItsEnd : Obligations.PortResetAndItsEnd := by
  intro s p
  refine ⟨⟨s.assertPortReset p, rfl, ?_⟩, s.negatePortReset p, rfl, fun q hq => State.port_negatePortReset_of_ne hq,
    fun _ => rfl, by simp [State.SameChip, State.negatePortReset], ?_⟩
  · obtain ⟨hmode, hprst, hsession, _⟩ := State.port_assertPortReset_spec (s := s) (p := p) (q := p)
    obtain ⟨hquota, hserial, hmem, hposition, hcontrol⟩ := State.assertPortReset_frame (s := s) (p := p)
    refine ⟨hmode, hprst, hsession, hquota, hserial, hmem, hposition, hcontrol, fun hup => ?_, fun ha => ⟨?_, fun q hq => ?_⟩,
      fun hd => ?_, fun hd => ?_, fun ha => ?_⟩
    · obtain ⟨r, hr⟩ := State.assertPortReset_words hup
      rw [hr]
      exact ⟨rfl, fun i => by simp [PortState.portReset], fun i => by simp [PortState.portReset], rfl, rfl, rfl, rfl, rfl, rfl,
        rfl, rfl⟩
    · rw [State.assertPortReset_attached ha]
      exact (s.endSession_spec p .down (by decide)).portReset
    · rw [State.assertPortReset_attached ha, State.port_onPort_of_ne _ hq]
      exact s.endSession_posts_nothing p q (by decide)
    · rw [State.assertPortReset_detached hd, State.port_onPort_self]
      exact ⟨rfl, rfl, rfl, rfl, rfl, rfl, rfl, rfl⟩
    · rw [State.assertPortReset_down hd, State.port_onPort_self]
    · cases hm : (s.port p).mode with
      | attached => exact absurd hm ha
      | down =>
        rw [State.assertPortReset_down hm]
        exact ⟨fun _ => rfl, fun q hq => State.port_onPort_of_ne s hq _, by simp [State.SameChip]⟩
      | detached =>
        rw [State.assertPortReset_detached hm]
        exact ⟨fun _ => rfl, fun q hq => State.port_onPort_of_ne s hq _, by simp [State.SameChip]⟩
  · rw [State.port_negatePortReset_self]
    simp only [and_comm]

/-! ### RESETn -/

/-- Settles O5: every field of the state while RESETn is asserted. -/
theorem chipResetSetsEveryBlock : Obligations.ChipResetSetsEveryBlock := by
  intro s
  refine ⟨s.assertReset, rfl, rfl, rfl, rfl, rfl, fun l => ?_, fun i => ?_, rfl, rfl, rfl, fun p => ?_, ?_, ?_, rfl, rfl⟩
  · rw [State.lock_assertReset]; rfl
  · rw [State.window_assertReset]; rfl
  · rw [State.port_assertReset]; rfl
  · simp only [State.freeEntries, State.lock_assertReset]; rfl
  · simp only [State.freeSlots, State.port_assertReset]; rfl

/-- Settles O6: without RESETn asserted there is no negation, and with it the straps are sampled. -/
theorem chipResetEndSamplesStraps : Obligations.ChipResetEndSamplesStraps := by
  intro s csel
  refine ⟨s.negateReset csel, rfl, State.negateReset_of_negated, fun hr => ?_⟩
  refine ⟨?_, fun p => ?_, fun p => State.port_negateReset hr, ?_⟩ <;> rw [State.negateReset_of_asserted hr]
  · rfl
  · exact (BEq.comm : (csel == p) = (p == csel))
  · exact ⟨fun _ => rfl, fun _ => rfl, rfl, rfl, rfl, rfl, rfl, rfl, rfl⟩

/-! ### The reset state -/

/-- The reset state is the one that RESETn leads to from it. -/
theorem State.assertReset_reset : State.reset.assertReset = State.reset := by
  refine State.ext_records rfl rfl (fun p => ?_) (fun _ => rfl) rfl rfl (fun _ => rfl) rfl rfl rfl rfl rfl
  rw [State.port_assertReset]
  simp [State.reset, State.port, PortState.reset]

theorem State.port_reset (p : Port) : State.reset.port p = PortState.reset := by simp [State.reset, State.port]

theorem State.lock_reset (l : LockNo) : State.reset.lock l = LockRec.reset := by simp [State.reset, State.lock]

theorem State.window_reset (i : WindowNo) : State.reset.window i = Window.reset := by simp [State.reset, State.window]

theorem State.not_attached_reset (p : Port) : State.reset.attached p = false := by
  rw [State.attached, State.port_reset]; rfl

theorem State.reset_absentBare : State.reset.AbsentBare := by
  refine State.absentBare_iff.mpr fun p _ => ⟨?_, ?_⟩
  · rw [State.port_reset]
    exact ⟨rfl, rfl, rfl, rfl, rfl, rfl, rfl, rfl, rfl⟩
  · rw [← State.assertReset_reset]
    exact State.not_uses_assertReset _ p

theorem State.reset_messagesLawful : State.reset.MessagesLawful := by
  refine ⟨fun p => ?_, ?_, fun p m hm => ?_⟩
  · rw [State.port_reset]; decide
  · simp [State.slotsInUse, State.port_reset, PortState.reset]
  · rw [State.port_reset] at hm; cases hm

/-- Settles O7: each law of the records that RESETn leaves. -/
theorem resetIsLawful : Obligations.ResetIsLawful := by
  refine ⟨fun l => ?_, ?_, fun i => ?_, Memory.wf_reset, ?_, State.reset_messagesLawful, State.reset_absentBare, ⟨fun p => ?_, ?_⟩,
    ⟨fun p ha => ?_, fun p m hm => ?_⟩, fun p => ?_, ?_, State.timerLaw_of_count_zero rfl⟩
  · rw [State.lock_reset]; decide
  · simp [State.PoolLaw, State.entriesInUse, State.lock_reset, LockRec.reset]
  · rw [State.window_reset]; decide
  · rw [← State.assertReset_reset]
    exact State.assertReset_copiesLawful
  · rw [State.port_reset]
    simp [PortState.reset, State.reset]
  · simp [State.reset]
  · simp [State.not_attached_reset] at ha
  · rw [State.port_reset] at hm; cases hm
  · rw [State.port_reset]; simp [PortState.reset]
  · rw [← State.assertReset_reset]
    exact State.assertReset_busLaw

/-! ### Reads of the register window -/

/-- The word PSTAT as a number (Table 10-4). -/
theorem State.pstat_toNat (s : State) (p : Port) : (s.pstat p).toNat =
    (s.control.getD 0).val * 1024 + (s.isControl p).toNat * 512 + (s.attached p).toNat * 256 + (s.port p).session.toNat := by
  have hc := (s.control.getD 0).isLt
  unfold State.pstat
  simp only [toNat_pack, BitVec.toNat_ofNat, BitVec.toNat_ofBool]
  omega

/-- The fields of PSTAT (R156, Table 10-4). -/
theorem State.pstat_fields (s : State) (p : Port) : (s.pstat p).extractLsb' 12 4 = 0
      ∧ (∀ c, s.control = some c → ((s.pstat p).extractLsb' 10 2).toNat = c.val)
      ∧ (s.pstat p).getLsbD 9 = s.isControl p ∧ (s.pstat p).getLsbD 8 = s.attached p
      ∧ (s.pstat p).extractLsb' 0 8 = (s.port p).session := by
  have hc := (s.control.getD 0).isLt
  have hk := Bool.toNat_le (s.isControl p)
  have ha := Bool.toNat_le (s.attached p)
  have hn := (s.port p).session.isLt
  refine ⟨?_, fun c h => ?_, ?_, ?_, ?_⟩
  · apply BitVec.eq_of_toNat_eq
    rw [toNat_extract, State.pstat_toNat]
    change _ = 0
    omega
  · rw [toNat_extract, State.pstat_toNat]
    rw [h] at hc ⊢
    simp only [Option.getD_some] at hc ⊢
    omega
  · rw [getLsbD_eq, State.pstat_toNat]
    cases s.isControl p <;> simp <;> omega
  · rw [getLsbD_eq, State.pstat_toNat]
    cases s.attached p <;> simp <;> omega
  · apply BitVec.eq_of_toNat_eq
    rw [toNat_extract, State.pstat_toNat]
    omega

/-- No word is read at a DOWN port or while a cycle is unanswered (R141, R176). -/
theorem State.readWord_none (h : (s.port p).mode = .down ∨ (s.port p).busy = true) : s.readWord p w = none := if_pos h

theorem WindowWord.at_arg : ∀ i : Fin 8, WindowWord.at (Fin.ofNat 32 (0x01 + i.val)) = .plain (.arg i) := by decide

theorem WindowWord.at_res : ∀ i : Fin 10, WindowWord.at (Fin.ofNat 32 (0x09 + i.val)) = .plain (.res i) := by decide

theorem WindowWord.at_reserved : ∀ i : Fin 5, WindowWord.at (Fin.ofNat 32 (0x1B + i.val)) = .plain (.reserved i) := by decide

/-- A read of a ready port's window is answered with the word (R178). -/
theorem State.Ready.not_down_or_busy (h : s.Ready p) : ¬ ((s.port p).mode = .down ∨ (s.port p).busy = true) := by
  obtain ⟨hup, hb⟩ := h
  simp [hup, hb]

/-- Settles O60: RDY and the reads of a port that is DOWN, busy or ready, and the early end. -/
theorem readsRdyAndTheEarlyEnd : Obligations.ReadsRdyAndTheEarlyEnd := by
  intro s p
  refine ⟨fun hd => ⟨if_pos hd, fun o => State.readWord_none (.inl hd)⟩,
    fun hup hb => ⟨?_, fun o => State.readWord_none (.inr hb)⟩, fun hup code r ws => ?_, fun h => ?_, fun hb => ?_, fun hb => ?_⟩
  · rw [State.rdy, if_neg hup, hb]; rfl
  · rw [State.rdy, State.post_port_mode, if_neg hup]
    simp [PortState.busy, PortState.stretched]
  · have hreads := h.not_down_or_busy
    refine ⟨?_, if_neg hreads, fun i => ?_, fun i => ?_, if_neg hreads, if_neg hreads, if_neg hreads, if_neg hreads,
      if_neg hreads, rfl, if_neg hreads, ?_, fun i => ?_, s.pstat p, if_neg hreads, s.pstat_fields p⟩
    · rw [State.rdy, if_neg h.1, h.2]; rfl
    · rw [WindowWord.at_arg]; exact if_neg hreads
    · rw [WindowWord.at_res]; exact if_neg hreads
    · have hamode : s.readWord p .amode = some ((s.port p).amode.code.setWidth 16) := if_neg hreads
      refine hamode.trans ?_
      cases (s.port p).amode <;> rfl
    · rw [WindowWord.at_reserved]; exact if_neg hreads
  · rw [exec, execCycleEndedEarly, State.endCycleEarly, if_pos hb]
  · rw [exec, execCycleEndedEarly, State.endCycleEarly, if_neg (by simp [hb])]

end Sys2Proof.Machine
end

section
/-! PROOF. The event unit as its agent sees it: EVSUM and NTFn (R161, R162, R164), and the two takes that empty the event sets
(R166, R168). -/

namespace Sys2Proof.Machine

variable {s : State} {p : Port}

/-! ### EVSUM -/

/-- The condition of a class that is pending while a set is not empty (Table 8-3). -/
theorem bne_zero_eq_decide {n : Nat} (x : BitVec n) : (x != 0) = decide (x ≠ 0) := by
  rw [bne, beq_eq_decide, decide_not]

/-- The condition of a class that is pending while a queue or list is not empty (Table 8-3). -/
theorem not_isEmpty_eq_decide {α : Type} [DecidableEq α] (l : List α) : (!l.isEmpty) = decide (l ≠ []) := by
  cases l <;> rfl

/-- PER is pending while either peer set is not empty (Table 8-3). -/
theorem PortState.classPending_per (r : PortState) :
    r.classPending .per = decide (r.peerUp ≠ 0 ∨ r.peerDown ≠ 0) := by
  rw [PortState.classPending, bne_zero_eq_decide, bne_zero_eq_decide, Bool.decide_or]

/-- Each class stands at its own bit of the set of the pending classes (R162, Table 10-5). -/
theorem PortState.getLsbD_pendingClasses (r : PortState) (i : Fin 7) :
    r.pendingClasses.getLsbD i.val = r.classPending (EventClass.at i) := by
  simp [PortState.pendingClasses]

/-- Each class stands at its own bit of the word EVSUM (R162, Table 10-5). -/
theorem PortState.getLsbD_evsum (r : PortState) (i : Fin 7) :
    (r.pendingClasses.setWidth 16).getLsbD i.val = r.classPending (EventClass.at i) := by
  have hi : i.val < 16 := by omega
  rw [BitVec.getLsbD_setWidth, r.getLsbD_pendingClasses, decide_eq_true hi, Bool.true_and]

/-- Bits 15:7 of a word with a flag for each class (Table 10-5). -/
theorem extractLsb'_classWord (c : ClassSet) : (c.setWidth 16).extractLsb' 7 9 = 0 := by
  have hc := c.isLt
  apply BitVec.eq_of_toNat_eq
  rw [toNat_extract, BitVec.toNat_setWidth]
  change _ = 0
  omega

/-- A read of EVSUM by a port whose bus answers (R162, R178). -/
theorem State.readWord_evsum (h : s.Ready p) :
    s.readWord p (.plain .evsum) = some ((s.port p).pendingClasses.setWidth 16) := if_neg h.not_down_or_busy

/-! ### NTFn -/

/-- Two class sets meet exactly where a class stands in both. -/
theorem and_bne_zero_iff (a b : ClassSet) :
    (a &&& b) != 0 ↔ ∃ i : Fin 7, a.getLsbD i.val = true ∧ b.getLsbD i.val = true := by
  rw [bne_iff_ne, ← not_iff_not, not_ne_iff, not_exists]
  constructor
  · intro h i hi
    have hbit : (a &&& b).getLsbD i.val = true := by rw [BitVec.getLsbD_and, hi.1, hi.2]; rfl
    rw [h] at hbit
    simp at hbit
  · intro h
    refine BitVec.eq_of_getLsbD_eq fun i hi => ?_
    simpa using h ⟨i, hi⟩

/-- NTFn by the classes: the port is ATTACHED and a class is both pending and enabled (R164). -/
theorem State.ntfAsserted_iff : s.ntfAsserted p = true ↔ (s.port p).mode = .attached ∧ ∃ i : Fin 7,
    (s.port p).classPending (EventClass.at i) = true ∧ (s.port p).enables.getLsbD i.val = true := by
  rw [State.ntfAsserted, Bool.and_eq_true, State.attached_iff, and_bne_zero_iff]
  simp only [PortState.getLsbD_pendingClasses]

/-- Settles O57: EVSUM bit by bit, each bit its class and each class its condition, and NTFn by the classes. -/
theorem evsumAndNtfnFollowTheClasses : Obligations.EvsumAndNtfnFollowTheClasses := by
  intro s p
  have hbit := (s.port p).getLsbD_evsum
  refine ⟨fun h => ⟨_, State.readWord_evsum h, State.readWord_evsum h, ?_, ?_, ?_, ?_, ?_, hbit 5, ?_,
    extractLsb'_classWord _⟩, State.ntfAsserted_iff⟩
  · exact (hbit 0).trans (bne_zero_eq_decide _)
  · exact (hbit 1).trans (bne_zero_eq_decide _)
  · exact (hbit 2).trans (bne_zero_eq_decide _)
  · exact (hbit 3).trans (not_isEmpty_eq_decide _)
  · exact (hbit 4).trans (not_isEmpty_eq_decide _)
  · exact (hbit 6).trans (PortState.classPending_per _)

/-! ### The takes -/

/-- The set that TAKE_PEER_EVENTS returns holds the ports that are ATTACHED (R168). -/
theorem State.attachedSet_has (s : State) (q : Port) : s.attachedSet.has q = s.attached q := PortSet.has_of _ q

section
variable {a : Reply} (h : s.CanCommand p)
include h

theorem exec_takeLockEvents_of (hw : takeLockEventsWork p s = a) :
    exec (.takeLockEvents p) s = .next (a.state.post p 0x50 a.result a.words) := exec_open h hw rfl rfl rfl rfl rfl

theorem exec_takePeerEvents_of (hw : takePeerEventsWork p s = a) :
    exec (.takePeerEvents p) s = .next (a.state.post p 0x51 a.result a.words) := exec_open h hw rfl rfl rfl rfl rfl

end

/-- Settles O58: each take runs its work and posts the sets it found; the attached set is that of the ports that are ATTACHED. -/
theorem takesReturnAndEmptyTheSets : Obligations.TakesReturnAndEmptyTheSets := fun s _ h =>
  ⟨exec_takeLockEvents_of h rfl, s.attachedSet, s.attachedSet_has, exec_takePeerEvents_of h rfl⟩

end Sys2Proof.Machine
end

section
/-! PROOF. The cycles of a port behind an unanswered one (R81, R171, R176, R180): what the start of another shows, the answers one after
the other, the taking of the held cycles, and the service of an access that its agent ended early. -/

namespace Sys2Proof.Machine

variable {s : State} {p : Port} {c : Instr} {q : AccessRequest}

/-! ### The start of a cycle behind an unanswered one -/

/-- A cycle started behind unanswered ones, the newest of them not ended early, runs on the bus that has caught up (R81). -/
theorem State.cycle_caughtUp (he : (s.port p).cycleEnded = false) (hd : (s.port p).mode ≠ .down)
    (hb : ((s.caughtUp p).port p).busy = false) : s.cycle p c = (s.caughtUp p).cycle p c := by
  rw [State.cycle_ready ⟨State.caughtUp_up hd, hb⟩, State.cycle, if_neg hd, if_neg (by simp [he]), if_neg (by simp [hb])]

/-- Behind an access that waits at the arbiter, and was not ended early, no cycle can have been started (R81; log entry 9). -/
theorem State.cycle_blocked (he : (s.port p).cycleEnded = false) (hb : ((s.caughtUp p).port p).busy = true) :
    s.cycle p c = s := by
  simp [State.cycle, he, hb]

theorem exec_caughtUp (hp : c.port? = some p) (hw : c.wellFormed = true) (he : (s.port p).cycleEnded = false)
    (hd : (s.port p).mode ≠ .down) (hb : ((s.caughtUp p).port p).busy = false) : exec c s = exec c (s.caughtUp p) := by
  rw [exec_cycle hp hw, exec_cycle hp hw, State.cycle_caughtUp he hd hb]

/-! ### Answers -/

theorem PortState.answerable_eq_true_iff {r : PortState} : r.answerable = true ↔ r.request = none ∧ r.busy = true := by
  simp [PortState.answerable]

/-- A bus whose front cycle is an access, or that has no unanswered cycle, has nothing to answer (R82). -/
theorem State.caughtUp_of_waiting (h : (s.port p).request ≠ none ∨ (s.port p).busy = false) : s.caughtUp p = s := by
  refine State.caughtUp_of_not_answerable (Bool.eq_false_iff.mpr fun ha => ?_)
  obtain ⟨hr, hb⟩ := PortState.answerable_eq_true_iff.mp ha
  rcases h with h | h
  · exact h hr
  · exact absurd h (by simp [hb])

theorem State.answerCommand_of_posted (h : (s.port p).command = some .posted) :
    s.answerCommand p = s.onPort p fun r => { r with command := none } := by
  rw [State.answerCommand, State.endCommand, h]

/-- The answer of a POOL_STATUS that is under way: the reads it has left are made, and its result is posted (R177). -/
theorem State.answerCommand_of_reading {done : List Word} {left : List PoolValue}
    (h : (s.port p).command = some (.reading done left)) :
    s.answerCommand p =
      (s.post p 0x60 .ok (done ++ left.map s.poolValue)).onPort p fun r => { r with command := none } := by
  rw [State.answerCommand, State.endCommand, h]
  rfl

theorem State.answerCommand_of_none (h : (s.port p).command = none) : s.answerCommand p = s := by
  rw [State.answerCommand, State.endCommand, h]
  refine State.onPort_id _ p ?_
  show { s.port p with command := none } = s.port p
  rw [← h]

/-- The answer of a CMD cycle, by the stage its command has come to (R171). -/
theorem State.answerCommand_eq : s.answerCommand p =
    match (s.port p).command with
    | some (.reading done left) =>
      (s.post p 0x60 .ok (done ++ left.map s.poolValue)).onPort p fun r => { r with command := none }
    | some .posted => s.onPort p fun r => { r with command := none }
    | none => s := by
  split
  · next h => exact State.answerCommand_of_reading h
  · next h => exact State.answerCommand_of_posted h
  · next h => exact State.answerCommand_of_none h

/-- A stretched CMD cycle with no cycle behind it is answered, and the bus is free (R171). -/
theorem State.caughtUp_alone {t : State} (hr : (s.port p).request = none) (hb : (s.port p).busy = true)
    (hh : (s.port p).held = []) (ht : (s.answerCommand p).setHeld p [] false = t) (hf : (t.port p).busy = false) :
    s.caughtUp p = t := by
  have hanswer : s.answerBus p = t := by rw [State.answerBus, hh, takeHeld, ht]
  rw [State.caughtUp_step (PortState.answerable_eq_true_iff.mpr ⟨hr, hb⟩), hanswer, State.caughtUp_of_free hf]

theorem PortState.busy_of_command {r : PortState} {g : CmdStage} (h : r.command = some g) : r.busy = true := by
  simp [PortState.busy, PortState.stretched, h]

theorem State.caughtUp_of_posted (hr : (s.port p).request = none) (hc : (s.port p).command = some .posted)
    (hh : (s.port p).held = []) : s.caughtUp p = s.onPort p fun r => { r with command := none, cycleEnded := false } := by
  refine State.caughtUp_alone hr (PortState.busy_of_command hc) hh ?_ ?_
  · rw [State.answerCommand_of_posted hc, State.setHeld, State.onPort_onPort]
    refine State.onPort_congr _ p ?_
    show { s.port p with command := none, held := [], cycleEnded := false } = _
    rw [← hh]
  · rw [State.port_onPort_self, PortState.busy_eq_false_iff]
    exact ⟨hr, rfl, hh⟩

/-- The bus that acts on an empty queue is the lowest one that can answer its front cycle (log entry 4). -/
theorem State.readyCycle_of_lowest (ha : (s.port p).answerable = true) (hlow : ∀ k, k < p → (s.port k).answerable = false) :
    s.readyCycle = some p := by
  rw [State.readyCycle, List.find?_eq_some_iff_getElem]
  exact ⟨ha, p.val, by simp, by simp, fun j hj => by simpa using hlow ⟨j, hj.trans p.isLt⟩ hj⟩

/-- On an empty queue the bus of the lowest port that can answer its front cycle acts. -/
theorem step_busStep (hp : s.pending = []) (hr : s.readyCycle = some p) : step s = .next (s.busStep p) := by
  rw [step, hp]
  show s.idleStep = _
  rw [State.idleStep, hr]

theorem State.busStep_of_posted (h : (s.port p).command = some .posted) :
    s.busStep p =
      takeHeld p (s.port p).cycleEnded (s.port p).held (s.onPort p fun r => { r with command := none }) := by
  rw [State.busStep, h, State.answerBus, State.answerCommand_of_posted h]

/-! ### The held cycles -/

theorem State.setHeld_setHeld {h1 h2 : List Instr} {e1 e2 : Bool} :
    (s.setHeld p h1 e1).setHeld p h2 e2 = s.setHeld p h2 e2 := State.onPort_onPort ..

theorem State.setHeld_self : s.setHeld p (s.port p).held (s.port p).cycleEnded = s := State.onPort_id _ _ rfl

/-- The taking of held cycles replaces what the port's record held, so what it held before does not matter. -/
theorem takeHeld_setHeld {ended e : Bool} {held h : List Instr} :
    takeHeld p ended held (s.setHeld p h e) = takeHeld p ended held s := by
  cases held with
  | nil => rw [takeHeld, takeHeld, State.setHeld_setHeld]
  | cons c rest => rw [takeHeld_cons, takeHeld_cons, State.setHeld_setHeld]

/-- A bus that carries nothing stretched takes the oldest held cycle as any ready bus does (R176). -/
theorem State.ready_setHeld {e : Bool} (hd : (s.port p).mode ≠ .down) (hr : (s.port p).request = none)
    (hc : (s.port p).command = none) : (s.setHeld p [] e).Ready p := by
  rw [State.Ready, State.port_setHeld, if_pos rfl]
  exact ⟨hd, PortState.busy_eq_false_iff.mpr ⟨hr, hc, rfl⟩⟩

/-! ### An access that was ended early -/

theorem State.choice_setHeld {h : List Instr} {e : Bool} : (s.setHeld p h e).choice = s.choice := by
  have hwaits : (s.setHeld p h e).waits = s.waits := by
    funext g
    cases g with
    | engine => rfl
    | port k =>
      rw [State.waits, State.waits, State.port_setHeld]
      split <;> rfl
  rw [State.choice, State.choice, hwaits]
  rfl

theorem State.attached_setHeld {h : List Instr} {e : Bool} : (s.setHeld p h e).attached p = s.attached p := by
  rw [State.attached, State.attached, State.port_setHeld, if_pos rfl]

/-- A port's held cycles and the memory are changed apart. -/
theorem State.setHeld_mem {h : List Instr} {e : Bool} {m : Memory} :
    ({ s.setHeld p h e with mem := m } : State) = ({ s with mem := m } : State).setHeld p h e := rfl

/-- Changes of one port's record that agree on it once its held cycles are set. -/
theorem State.setHeld_onPort_congr {f g : PortState → PortState} {h : List Instr} {e : Bool}
    (hfg : f { s.port p with held := h, cycleEnded := e } = g { s.port p with held := h, cycleEnded := e }) :
    (s.setHeld p h e).onPort p f = (s.setHeld p h e).onPort p g := by
  refine State.onPort_congr _ p ?_
  rw [State.port_setHeld, if_pos rfl]
  exact hfg

/-- A port's record after the service of its access, with AADDR and the fault record as the service leaves them (R82, R87). -/
abbrev PortState.served (r : PortState) (k : AccessKind) (w v : Word) (f : Option FaultRecord) : PortState :=
  { r.answered k w with aaddr := v, fault := f }

/-- What the service of an access reads and writes does not depend on the cycles held behind it: they decide only whether a read's
data are lost (R82, R176). -/
theorem State.serveAccess_setHeld (s : State) (p : Port) (q : AccessRequest) :
    ∃ m w v f, ∀ h e, (s.setHeld p h e).serveAccess p q =
      (({ s with mem := m } : State).setHeld p h e).onPort p fun r => r.served q.kind w v f := by
  by_cases hgone : s.attached p = false ∨ (s.port p).session ≠ q.session
  · refine ⟨s.mem, Config.refusedRead, (s.port p).aaddr, (s.port p).fault, fun h e => ?_⟩
    rw [State.serveAccess_ended (by simpa [State.attached_setHeld] using hgone)]
    exact State.setHeld_onPort_congr rfl
  · obtain ⟨ha, hsession⟩ : s.attached p = true ∧ (s.port p).session = q.session := by simpa using hgone
    have ha' {h e} : (s.setHeld p h e).attached p = true := State.attached_setHeld.trans ha
    have hsession' {h e} : ((s.setHeld p h e).port p).session = q.session := by simpa using hsession
    cases hcheck : s.check p q.view q.kind.dir with
    | refused why =>
      refine ⟨s.mem, Config.refusedRead, (s.port p).aaddr,
        offerFault (s.port p).fault (s.faultOf why q.kind.dir q.view), fun h e => ?_⟩
      rw [State.serveAccess_refused ha' hsession' hcheck]
      exact State.setHeld_onPort_congr rfl
    | permitted b =>
      cases hk : q.kind with
      | read =>
        refine ⟨s.mem, s.mem.read b.toNat, s.advance (s.port p).amode q.view, (s.port p).fault, fun h e => ?_⟩
        rw [State.serveAccess_permitted ha' hsession' hcheck, State.servePermitted, hk]
        exact State.setHeld_onPort_congr rfl
      | write w =>
        refine ⟨s.mem.write b.toNat w, 0, s.advance (s.port p).amode q.view, (s.port p).fault, fun h e => ?_⟩
        rw [State.serveAccess_permitted ha' hsession' hcheck, State.servePermitted, hk]
        dsimp only
        rw [State.mem_setHeld, State.setHeld_mem]
        exact State.setHeld_onPort_congr rfl

/-- The answer of an access that its agent ended early is that of any other, but for the data of a read, which are lost (R176). -/
theorem PortState.answerFor_ended_early {r : PortState} {k : AccessKind} {w : Word} : r.answerFor k w =
    if k = .read ∧ (r.cycleEnded = true ∨ r.held ≠ []) then .lost
    else ({ r with held := [], cycleEnded := false } : PortState).answerFor k w := by
  cases k with
  | write _ => rfl
  | read => simp [PortState.answerFor, PortState.accessEndedEarly, or_comm]

/-- An access that its agent ended early is served as any other, but that a read's data are lost (R176). -/
theorem State.serveAccess_ended_early : (s.serveAccess p q).setHeld p [] false =
    if q.kind = .read ∧ ((s.port p).cycleEnded = true ∨ (s.port p).held ≠ []) then
      ((s.setHeld p [] false).serveAccess p q).onPort p fun r => { r with answer := .lost }
    else (s.setHeld p [] false).serveAccess p q := by
  obtain ⟨m, w, v, f, hserve⟩ := State.serveAccess_setHeld s p q
  have hself := hserve (s.port p).held (s.port p).cycleEnded
  have hanswer := (s.port p).answerFor_ended_early (k := q.kind) (w := w)
  rw [State.setHeld_self] at hself
  rw [hself, hserve]
  simp only [State.setHeld, State.onPort_onPort]
  have hrecord {x : CycleAnswer} (hx : (s.port p).answerFor q.kind w = x) :=
    congrArg (fun y => { s.port p with
      request := none, answer := y, aaddr := v, fault := f, held := [], cycleEnded := false }) hx
  split
  · next hearly => exact State.onPort_congr _ p (hrecord (hanswer.trans (if_pos hearly)))
  · next hearly => exact State.onPort_congr _ p (hrecord (hanswer.trans (if_neg hearly)))

/-- Settles O44: the start of a cycle behind unanswered ones, their answers, the held cycles, and the access ended early. -/
theorem earlyEndedCyclesHoldTheNext : Obligations.EarlyEndedCyclesHoldTheNext := by
  intro s p
  refine ⟨fun c hp hw hd hb => ⟨fun he => ?_, fun he => ⟨exec_caughtUp hp hw he hd, fun hbusy => ?_⟩⟩,
    State.caughtUp_of_waiting, fun hr hb => State.caughtUp_step (PortState.answerable_eq_true_iff.mpr ⟨hr, hb⟩), ?_,
    State.caughtUp_of_posted, fun hpend hr hc hlow => ?_, fun ended => ⟨rfl, fun c rest hp hw hd hr hc => ?_⟩,
    fun q hchoice hq => ?_⟩
  · rw [exec_cycle hp hw, State.cycle_held hd hb he]
  · rw [exec_cycle hp hw, State.cycle_blocked he hbusy]
  · exact congrArg (takeHeld p (s.port p).cycleEnded (s.port p).held) State.answerCommand_eq
  · have ha := PortState.answerable_eq_true_iff.mpr ⟨hr, PortState.busy_of_command hc⟩
    rw [step_busStep hpend (State.readyCycle_of_lowest ha hlow), State.busStep_of_posted hc]
  · exact ⟨_, exec_ready (State.ready_setHeld hd hr hc) hp hw, takeHeld_cons⟩
  · have halone := exec_apertureAccess_alone (s := s.setHeld p [] false) (State.choice_setHeld.trans hchoice)
      (by simpa using hq) (by simp) (by simp)
    refine ⟨_, halone, ?_⟩
    rw [exec_apertureAccess_of_choice hchoice, State.grantPort_of_request hq,
      ← takeHeld_setHeld (s := (s.movedPast p).serveAccess p q) (h := []) (e := false), State.serveAccess_ended_early]
    rfl

end Sys2Proof.Machine
end

section
/-! PROOF. POOL_STATUS (R174, R177): the reads of its five values one by one, and its end. -/

namespace Sys2Proof.Machine

variable {s : State} {p : Port} {c : Instr} {done : List Word} {left : List PoolValue}

/-- POOL_STATUS of an ATTACHED port reads the free waiter entries, and has four values left to read (R177). -/
theorem State.beginPoolStatus_of_attached (h : s.attached p = true) : s.beginPoolStatus p = s.onPort p fun r =>
    { r with
      command := some (.reading [BitVec.ofNat 16 (32 - s.entriesInUse)]
        [.messageSlots, .copySlots, .engineState, .tickDivider]) } := by
  rw [State.beginPoolStatus, if_neg (by simp [h])]
  rfl

theorem State.poolValue_engineState : s.poolValue .engineState =
    match s.engine.mode with
    | .idle => 0
    | .running => 1
    | .paused => 2 := by
  rw [State.poolValue]
  cases s.engine.mode <;> rfl

theorem State.busStep_of_read {v : PoolValue} (h : (s.port p).command = some (.reading done (v :: left))) :
    s.busStep p = s.onPort p fun r => { r with command := some (.reading (done ++ [s.poolValue v]) left) } := by
  rw [State.busStep, h]

theorem State.busStep_of_reads_made (h : (s.port p).command = some (.reading done [])) :
    s.busStep p = s.post p 0x60 .ok done := by
  rw [State.busStep, h]
  rfl

/-- The start of the port's next cycle shows that the reads left have been made and the result posted (R81; log entry 6). -/
theorem State.caughtUp_of_reading (h : (s.port p).command = some (.reading done left)) (hr : (s.port p).request = none)
    (hh : (s.port p).held = []) (he : (s.port p).cycleEnded = false) : s.caughtUp p =
      (s.post p 0x60 .ok (done ++ left.map s.poolValue)).onPort p fun r => { r with command := none } := by
  refine State.caughtUp_alone hr (PortState.busy_of_command h) hh ?_ ?_
  · rw [State.answerCommand_of_reading h]
    exact State.onPort_id _ p (by simp [hh, he])
  · rw [State.port_onPort_self, PortState.busy_eq_false_iff]
    simp [hr, hh]

/-- Settles O59: the taking, the five values as their blocks stand, then the steps that read and post, and the next cycle. -/
theorem poolStatusReports : Obligations.PoolStatusReports := by
  intro s p
  refine ⟨fun h => ?_, rfl, rfl, State.poolValue_engineState, rfl, fun done left hc =>
    ⟨fun hp hready => ⟨fun v vs hleft => ?_, fun hleft => ?_⟩, fun hr hh he hd c hport hw => ?_⟩⟩
  · rw [exec_ready h.ready rfl rfl, takeCycle, State.beginPoolStatus_of_attached h.1]
  · rw [step_busStep hp hready, State.busStep_of_read (hleft ▸ hc)]
  · rw [step_busStep hp hready, State.busStep_of_reads_made (hleft ▸ hc)]
  · have hcaught := State.caughtUp_of_reading hc hr hh he
    rw [exec_caughtUp hport hw he hd, hcaught]
    rw [hcaught, State.port_onPort_self, PortState.busy_eq_false_iff]
    simp [hr, hh]

end Sys2Proof.Machine
end

section
/-! PROOF. The command interface (R173, R174): the codes of the words written to CMD, a refused command posts its result only, and no
well-formed command stops the part. -/

namespace Sys2Proof.Machine

variable {s t : State} {p q : Port} {c : Instr} {code : Byte} {w : Word} {work : State → Reply}

/-! ### Codes -/

/-- A word written to CMD is a code of Table 9-1, or starts BAD_COMMAND (R173 step 1). -/
theorem decodeCmd_cases (p : Port) (w : Word) :
    (∃ code : Byte, (decodeCmd p w).code? = some code ∧ code.setWidth 16 = w) ∨ decodeCmd p w = .badCommand p w := by
  unfold decodeCmd
  split
  case h_30 => exact .inr rfl
  all_goals next h => exact .inl ⟨_, rfl, (BitVec.eq_of_toNat_eq h).symm⟩

/-- A command's code is read as a command with that code, whatever port writes it (Table 9-1). -/
theorem code?_decodeCmd (hc : c.code? = some code) : (decodeCmd p (code.setWidth 16)).code? = some code := by
  cases c with
  | badCommand k w | adataRead k | adataWrite k w | amodeWrite k w | evenSet k w | evenClr k w | registerWrite k r w
  | apertureAccess | copyWordMove | leaseTick | waitExpiry l k | leaseExpiry l | resetnAsserted | resetnNegated k
  | prstnAsserted k | prstnNegated k | cycleEndedEarly k => cases hc
  | _ => cases hc; rfl

theorem decodeCmd_eq_badCommand_iff :
    decodeCmd p w = .badCommand p w ↔ ∀ (i : Instr) (k : Byte), i.code? = some k → k.setWidth 16 ≠ w := by
  constructor
  · rintro h i k hk rfl
    have hcode := code?_decodeCmd (p := p) hk
    rw [h] at hcode
    cases hcode
  · intro h
    rcases decodeCmd_cases p w with ⟨k, hk, hw⟩ | hbad
    · exact absurd hw (h _ k hk)
    · exact hbad

/-- No code is 00H (Table 9-1). -/
theorem code_ne_zero (hc : c.code? = some code) : code ≠ 0 := by
  rintro rfl
  cases c <;> cases hc

/-- 0000H and the words above 00FFH are no codes (R173 step 1). -/
theorem decodeCmd_of_outside (h : w = 0 ∨ 0x00FF < w.toNat) : decodeCmd p w = .badCommand p w := by
  refine decodeCmd_eq_badCommand_iff.mpr fun i k hk hw => ?_
  have hne : k.toNat ≠ 0 := fun h0 => code_ne_zero hk (BitVec.eq_of_toNat_eq h0)
  have hnat : w.toNat = k.toNat := by
    rw [← hw, BitVec.toNat_setWidth, Nat.mod_eq_of_lt (by omega)]
  rcases h with rfl | h
  · exact hne hnat.symm
  · omega

/-- A word that starts BAD_COMMAND is no assigned code, whatever port writes it. -/
theorem assignedCode_of_badCommand (h : decodeCmd p w = .badCommand p w) : assignedCode w = false := by
  rw [assignedCode, decodeCmd_eq_badCommand_iff.mpr (decodeCmd_eq_badCommand_iff.mp h)]
  rfl

theorem exec_badCommand_of_assigned (h : assignedCode w = true) :
    exec (.badCommand p w) s = .refused (.codeAssigned w) := by
  show execBadCommand p w s = _
  rw [execBadCommand, if_pos h]

/-- Settles O18: the words that are no code, what a ready port's write of one posts, and the ill-formed term. -/
theorem badCommandPosts : Obligations.BadCommandPosts := by
  intro p w
  refine ⟨decodeCmd_eq_badCommand_iff, decodeCmd_of_outside, fun s hs h => ?_, fun s => exec_badCommand_of_assigned⟩
  have hw : (Instr.badCommand p w).wellFormed = true := by simp [Instr.wellFormed, assignedCode_of_badCommand h]
  rw [exec_ready hs rfl hw]
  rfl

/-! ### Refusals -/

/-- What a block replies to a command in state `s`: success, with OK, GRANTED or QUEUED, or a refusal, which leaves the state as it is
and defines no result word (R174). -/
def Reply.OfBlock (a : Reply) (s : State) : Prop := a.result.value.toNat < 3 ∨ (a.state = s ∧ a.words = [])

theorem Reply.OfBlock.refusal {r : Result} : Reply.OfBlock { state := s, result := r } s := .inr ⟨rfl, rfl⟩

theorem Reply.OfBlock.ok {ws : List Word} : Reply.OfBlock { state := t, result := .ok, words := ws } s :=
  .inl (by decide : Result.ok.value.toNat < 3)

theorem Reply.OfBlock.withLock {k : LockNo → Reply} (hk : ∀ l, (k l).OfBlock s) : (s.withLock p k).OfBlock s := by
  unfold State.withLock
  split
  · exact .refusal
  · exact hk _

/-- ACQUIRE's decision is GRANTED, BUSY, NO_ENTRY or QUEUED (R9, R11). -/
theorem State.decideAcquire_reply {l : LockNo} {a : AcquireArgs} : (s.decideAcquire p l a).OfBlock s := by
  unfold State.decideAcquire
  split
  · exact .inl (by decide : Result.granted.value.toNat < 3)
  · split
    · exact .refusal
    · split
      · exact .refusal
      · exact .inl (by decide : Result.queued.value.toNat < 3)

theorem acquireWork_reply : (acquireWork p s).OfBlock s := by
  refine .withLock fun l => ?_
  split
  · exact .refusal
  · split
    · exact .refusal
    · split
      · exact .refusal
      · split
        · exact .refusal
        · exact State.decideAcquire_reply

theorem releaseWork_reply : (releaseWork p s).OfBlock s := by
  refine .withLock fun l => ?_
  split
  · exact .ok
  · exact .refusal

theorem renewWork_reply : (renewWork p s).OfBlock s := by
  refine .withLock fun l => ?_
  split
  · exact .ok
  · exact .refusal

theorem withdrawWork_reply : (withdrawWork p s).OfBlock s := by
  refine .withLock fun l => ?_
  split
  · exact .ok
  · exact .refusal

theorem lockStatusWork_reply : (lockStatusWork p s).OfBlock s := .withLock fun _ => .ok

theorem setLockWork_reply : (setLockWork p s).OfBlock s := by
  refine .withLock fun l => ?_
  split
  · exact .refusal
  · split
    · exact .refusal
    · exact .ok

theorem breakWork_reply : (breakWork p s).OfBlock s := by
  refine .withLock fun l => ?_
  split
  · exact .refusal
  · exact .ok

theorem setTickWork_reply : (setTickWork p s).OfBlock s := by
  unfold setTickWork
  split
  · exact .refusal
  · exact .ok

theorem probeWork_reply : (probeWork p s).OfBlock s := by
  unfold probeWork
  split
  · exact .refusal
  · exact .ok

theorem getWindowWork_reply : (getWindowWork p s).OfBlock s := by
  unfold getWindowWork
  split
  · exact .refusal
  · exact .ok

theorem setWindowWork_reply : (setWindowWork p s).OfBlock s := by
  unfold setWindowWork
  split
  · exact .refusal
  · exact .ok

theorem setDefaultRightsWork_reply : (setDefaultRightsWork p s).OfBlock s := by
  unfold setDefaultRightsWork
  split
  · exact .refusal
  · exact .ok

theorem State.copyRequest_reply {j : CopyJob} : (s.copyRequest p j).OfBlock s := by
  unfold State.copyRequest
  split
  · exact .refusal
  · split
    · exact .refusal
    · split
      · exact .refusal
      · exact .ok

theorem cancelCopyWork_reply : (cancelCopyWork p s).OfBlock s := by
  unfold cancelCopyWork
  split
  · exact .refusal
  · split
    · exact .ok
    · split
      · exact .refusal
      · exact .refusal

theorem takeCompletionWork_reply : (takeCompletionWork p s).OfBlock s := by
  unfold takeCompletionWork
  split
  · exact .refusal
  · exact .ok

theorem resumeCopyWork_reply : (resumeCopyWork p s).OfBlock s := by
  unfold resumeCopyWork
  split
  · exact .ok
  · exact .ok
  · exact .ok

theorem sendWork_reply : (sendWork p s).OfBlock s := by
  unfold sendWork
  split
  · exact .refusal
  · split
    · exact .refusal
    · split
      · exact .refusal
      · split
        · exact .refusal
        · exact .ok

theorem receiveWork_reply : (receiveWork p s).OfBlock s := by
  unfold receiveWork
  split
  · exact .refusal
  · exact .ok

theorem setQuotaWork_reply : (setQuotaWork p s).OfBlock s := by
  unfold setQuotaWork
  split
  · exact .refusal
  · split
    · exact .refusal
    · exact .ok

theorem takeFaultWork_reply : (takeFaultWork p s).OfBlock s := by
  unfold takeFaultWork
  split
  · exact .refusal
  · exact .ok

theorem evictWork_reply : (evictWork p s).OfBlock s := by
  unfold evictWork
  split
  · exact .refusal
  · split
    · exact .refusal
    · exact .ok

/-- What a command leaves of the part: it is under way, it has succeeded, or it was refused and its result is posted on the state it
met (R174). -/
def State.Answers (s t : State) (p : Port) (code : Byte) : Prop :=
  (t.port p).command ≠ some .posted ∨ ((t.port p).status.extractLsb' 8 8).toNat < 3 ∨ ∃ r, t = s.post p code r []

/-- The result code stands in bits 15:8 of STATUS (Table 10-3). -/
theorem State.post_result {r : Result} {ws : List Word} :
    ((s.post p code r ws).port p).status.extractLsb' 8 8 = r.value := by
  rw [State.port_post, if_pos rfl]
  exact BitVec.extractLsb'_append_eq_left

theorem State.Answers.refusal (r : Result) : s.Answers (s.post p code r []) p code := .inr (.inr ⟨r, rfl⟩)

theorem Reply.OfBlock.answers {a : Reply} (h : a.OfBlock s) : s.Answers (a.state.post p code a.result a.words) p code := by
  rcases h with hsuccess | ⟨hstate, hwords⟩
  · exact .inr (.inl (by rwa [State.post_result]))
  · rw [hstate, hwords]
    exact .refusal _

theorem State.Answers.issue (hc : c.code? = some code) (h : (work s).OfBlock s) : s.Answers (s.issue c p work) p code := by
  rw [State.issue, hc]
  rcases State.command_cases (s := s) (p := p) (code := code) (cmd := work) with ⟨_, hrun⟩ | ⟨_, hrun⟩ | ⟨_, _, hrun⟩
  · exact hrun ▸ .refusal _
  · exact hrun ▸ .refusal _
  · exact hrun ▸ h.answers

theorem State.Answers.attach : s.Answers (s.attach p) p 0x01 := by
  unfold State.attach
  split
  · exact .refusal _
  · exact .inr (.inl (by rw [State.post_result]; decide))

theorem State.Answers.beginPoolStatus : s.Answers (s.beginPoolStatus p) p 0x60 := by
  unfold State.beginPoolStatus
  split
  · exact .refusal _
  · refine .inl ?_
    rw [State.port_onPort_self]
    simp

/-- Every command that is taken is under way, succeeds, or only posts its refusal (R174). -/
theorem State.Answers.takeCycle (hp : c.port? = some p) (hc : c.code? = some code) : s.Answers (takeCycle c s) p code := by
  cases c with
  | attach k => cases hp; cases hc; exact .attach
  | detach k => cases hp; exact .issue hc .ok
  | evict k => cases hp; exact .issue hc evictWork_reply
  | acquire k => cases hp; exact .issue hc acquireWork_reply
  | release k => cases hp; exact .issue hc releaseWork_reply
  | renew k => cases hp; exact .issue hc renewWork_reply
  | withdraw k => cases hp; exact .issue hc withdrawWork_reply
  | lockStatus k => cases hp; exact .issue hc lockStatusWork_reply
  | setLock k => cases hp; exact .issue hc setLockWork_reply
  | breakLock k => cases hp; exact .issue hc breakWork_reply
  | setTick k => cases hp; exact .issue hc setTickWork_reply
  | probe k => cases hp; exact .issue hc probeWork_reply
  | getWindow k => cases hp; exact .issue hc getWindowWork_reply
  | setWindow k => cases hp; exact .issue hc setWindowWork_reply
  | setDefaultRights k => cases hp; exact .issue hc setDefaultRightsWork_reply
  | copy k => cases hp; exact .issue hc State.copyRequest_reply
  | fill k => cases hp; exact .issue hc State.copyRequest_reply
  | cancelCopy k => cases hp; exact .issue hc cancelCopyWork_reply
  | takeCompletion k => cases hp; exact .issue hc takeCompletionWork_reply
  | pauseCopy k => cases hp; exact .issue hc .ok
  | resumeCopy k => cases hp; exact .issue hc resumeCopyWork_reply
  | send k => cases hp; exact .issue hc sendWork_reply
  | receive k => cases hp; exact .issue hc receiveWork_reply
  | msgStatus k => cases hp; exact .issue hc .ok
  | setQuota k => cases hp; exact .issue hc setQuotaWork_reply
  | takeLockEvents k => cases hp; exact .issue hc .ok
  | takePeerEvents k => cases hp; exact .issue hc .ok
  | takeFault k => cases hp; exact .issue hc takeFaultWork_reply
  | poolStatus k => cases hp; cases hc; exact .beginPoolStatus
  | _ => cases hc

/-- Settles O17: a command that has ended and has not succeeded has only posted its refusal. -/
theorem refusedCommandsOnlyPost : Obligations.RefusedCommandsOnlyPost := by
  intro c p code s t hp hc hready hexec hended hrefused
  rw [exec_ready hready hp (wellFormed_of_code hc)] at hexec
  cases hexec
  rcases State.Answers.takeCycle (s := s) hp hc with hunder | hsuccess | hposted
  · exact absurd hended hunder
  · exact absurd hsuccess (Nat.not_lt.mpr hrefused)
  · exact hposted

/-! ### No command stops the part -/

/-- Every well-formed command or event has a meaning: a bus cycle is started, and every other event is taken as it is (R174, R85). -/
theorem exec_of_wellFormed (hw : c.wellFormed = true) : ∃ t, exec c s = .next t := by
  cases hp : c.port? with
  | some p => exact ⟨_, exec_cycle hp hw⟩
  | none =>
    cases c with
    | apertureAccess | copyWordMove | leaseTick | waitExpiry l k | leaseExpiry l | resetnAsserted | resetnNegated k
    | prstnAsserted k | prstnNegated k | cycleEndedEarly k => exact ⟨_, rfl⟩
    | _ => cases hp

/-- On an empty queue a bus acts or a CLK period passes. -/
theorem step_of_empty (hp : s.pending = []) : ∃ t, step s = .next t := by
  cases hr : s.readyCycle with
  | some q => exact ⟨_, step_busStep hp hr⟩
  | none => exact ⟨_, step_clkPeriod hp hr⟩

/-- Settles O3: commands and events as such, then a step by its queue. -/
theorem wellFormedCommandsNeverStop : Obligations.WellFormedCommandsNeverStop := by
  refine ⟨fun c s hw => exec_of_wellFormed hw, fun s _ hfront => ?_⟩
  cases hp : s.pending with
  | nil => exact step_of_empty hp
  | cons c rest =>
    rw [step_front hp]
    exact exec_of_wellFormed (hfront c (by rw [hp, List.head?_cons]))

end Sys2Proof.Machine
end

section
/-! PROOF. The front of the queue and the codes of Table 9-1: a step is the front command's meaning, and a command's code spells that
command. -/

namespace Sys2Proof.Machine

/-- Settles O1. -/
theorem stepRunsTheFrontCommand : Obligations.StepRunsTheFrontCommand := fun _ _ _ hfront => step_front hfront

/-- Settles O4, by the rows of Table 9-1: an event without a code writes none to CMD, and every code is the row of its command. -/
theorem commandCodesRoundTrip : Obligations.CommandCodesRoundTrip := by
  intro i p code hcode hport
  cases i with
  | badCommand k w | adataRead k | adataWrite k w | amodeWrite k w | evenSet k w | evenClr k w | registerWrite k r w
  | apertureAccess | copyWordMove | leaseTick | waitExpiry l k | leaseExpiry l | resetnAsserted | resetnNegated k
  | prstnAsserted k | prstnNegated k | cycleEndedEarly k => cases hcode
  | _ =>
    cases hcode
    cases hport
    rfl

end Sys2Proof.Machine
end
